-- ==== Sys2Proof/Word.lean ====
section
/-! DEFINITION. The widths of the values the block computes on (spec/00_scope.md R11, 30_encoding.md R84). -/

namespace Sys2Proof

/-- A 64-bit operand, result, virtual address or page-table entry. -/
abbrev Word := BitVec 64

/-- The datum `MMU.READ` and `MMU.WRITE` move. -/
abbrev Byte := BitVec 8

/-- A physical frame number, the width of the PTE's PPN field (R6 `PPN_BITS`). -/
abbrev Ppn := BitVec 44

/-- A physical address (R6 `PA_BITS`). -/
abbrev Pa := BitVec 56

/-- The position of an entry in a table (R11). -/
abbrev Index := BitVec 9

/-- A request on the command port (R84 `REQ`). -/
abbrev Req := BitVec 136

end Sys2Proof
end

