-- ==== Sys2Proof/Config.lean ====
section
/-! DEFINITION. The constants of the block (spec/00_scope.md R6) and the one open number, `MAX_PAGES` (R6, D3). -/

namespace Sys2Proof.Config

/-- `PAGE_SIZE`, bytes in a frame. -/
def pageSize : Nat := 4096

/-- `NUM_PTE_ENTRIES`, entries in a table. -/
def numPteEntries : Nat := 512

/-- `LEVELS`. -/
def levels : Nat := 3

/-- `MAX_PAGES` - 1 of the machine that comes out of reset: the spec leaves `MAX_PAGES` open between 1 and 2^44 (R6,
D3, U1), so this constant has no body and no proof can see its value: a claim that mentions it holds for every value
(safe). `maxPages` of Machine/Operands.lean adds the 1. Log 1. -/
opaque lastPpn : Ppn

end Sys2Proof.Config
end

