-- ==== Sys2Proof/Syntax.lean ====
section
/-! DEFINITION. The 23 operations of the block, one constructor per row of spec/opcode_table.json (spec/30_encoding.md
R88). An operand field that the operation does not use is no argument (R90 "ignored"), with one exception: `MMU.WALK`
and `MMU.READ` keep field `B`, because R152 latches `B[7:0]` into `WDATA` for every access. -/

namespace Sys2Proof

inductive Instr where
  | pteVget (entry : Word)
  | pteVset (entry : Word)
  | pteVclr (entry : Word)
  | pteRget (entry : Word)
  | pteRset (entry : Word)
  | pteRclr (entry : Word)
  | pteWget (entry : Word)
  | pteWset (entry : Word)
  | pteWclr (entry : Word)
  | pteDget (entry : Word)
  | pteDset (entry : Word)
  | pteDclr (entry : Word)
  | ptePpnget (entry : Word)
  | ptePpnset (entry ppn : Word)
  | navIndex (vaddr level : Word)
  | navEntryat (table index : Word)
  | navF2p (frame : Word)
  | navP2f (ppn : Word)
  | mmuWalk (vaddr b : Word)
  | mmuRead (vaddr b : Word)
  | mmuWrite (vaddr value : Word)
  | mmuSetroot (frame : Word)
  | mmuGetroot
  deriving DecidableEq, Repr

end Sys2Proof
end

