-- ==== Sys2Proof/WellFormed.lean ====
section
/-! DEFINITION. The operand domains of spec/30_encoding.md R90, as far as they do not depend on `MAX_PAGES`. An
ill-formed instruction is still decoded and still runs: it raises the `Abort` R90 names. -/

namespace Sys2Proof

/-- A `Frame` operand: bits 11:0 zero (R53) and a 56-bit physical address (D2: bits 63:56 zero). -/
def isFrameOperand (w : Word) : Bool :=
  w.extractLsb' 0 12 = 0 && w.extractLsb' 56 8 = 0

/-- A `PPN` operand: 0 .. 2^44 - 1. -/
def isPpnOperand (w : Word) : Bool :=
  decide (w.toNat < 2 ^ 44)

/-- Every operand lies in the domain R90 gives it (for the frames and for the PPN of `NAV.P2F`: in the domain of the
largest `MAX_PAGES`, 2^44). -/
def Instr.wellFormed : Instr → Bool
  | .pteVget _ => true
  | .pteVset _ => true
  | .pteVclr _ => true
  | .pteRget _ => true
  | .pteRset _ => true
  | .pteRclr _ => true
  | .pteWget _ => true
  | .pteWset _ => true
  | .pteWclr _ => true
  | .pteDget _ => true
  | .pteDset _ => true
  | .pteDclr _ => true
  | .ptePpnget _ => true
  | .ptePpnset _ ppn => isPpnOperand ppn
  | .navIndex _ level => decide (level.toNat ≤ 2)
  | .navEntryat table index => isFrameOperand table && decide (index.toNat ≤ 511)
  | .navF2p frame => isFrameOperand frame
  | .navP2f ppn => isPpnOperand ppn
  | .mmuWalk _ _ => true
  | .mmuRead _ _ => true
  | .mmuWrite _ _ => true
  | .mmuSetroot frame => isFrameOperand frame
  | .mmuGetroot => true

end Sys2Proof
end

