-- ==== Sys2Proof/Decode.lean ====
section
/-! DEFINITION. The request word, its decoder and its encoder (spec/30_encoding.md R84, R88, R89). -/

namespace Sys2Proof

/-- The request word of an operation number and two operands: `OP` is bits 135:128, `A` bits 127:64, `B` bits 63:0
(R84). -/
def Req.pack (op : Byte) (a b : Word) : Req :=
  (op ++ a) ++ b

/-- `OP`, bits 135:128 (R84). -/
def Req.op (r : Req) : Byte :=
  r.extractLsb' 128 8

/-- `A`, bits 127:64 (R84). -/
def Req.a (r : Req) : Word :=
  r.extractLsb' 64 64

/-- `B`, bits 63:0 (R84). -/
def Req.b (r : Req) : Word :=
  r.extractLsb' 0 64

/-- Why a request word names no operation. -/
inductive DecodeError where
  /-- `OP` is a reserved number (R89). -/
  | reservedOp (op : Byte)
  deriving DecidableEq, Repr

/-- The operation a request word asks for (R88), or the reserved number it holds (R89). Operand fields an operation
does not use are ignored (R90). -/
def decode (r : Req) : Except DecodeError Instr :=
  match Req.op r with
  | 0x00#8 => .ok (.pteVget (Req.a r))
  | 0x01#8 => .ok (.pteVset (Req.a r))
  | 0x02#8 => .ok (.pteVclr (Req.a r))
  | 0x04#8 => .ok (.pteRget (Req.a r))
  | 0x05#8 => .ok (.pteRset (Req.a r))
  | 0x06#8 => .ok (.pteRclr (Req.a r))
  | 0x08#8 => .ok (.pteWget (Req.a r))
  | 0x09#8 => .ok (.pteWset (Req.a r))
  | 0x0A#8 => .ok (.pteWclr (Req.a r))
  | 0x0C#8 => .ok (.pteDget (Req.a r))
  | 0x0D#8 => .ok (.pteDset (Req.a r))
  | 0x0E#8 => .ok (.pteDclr (Req.a r))
  | 0x10#8 => .ok (.ptePpnget (Req.a r))
  | 0x11#8 => .ok (.ptePpnset (Req.a r) (Req.b r))
  | 0x20#8 => .ok (.navIndex (Req.a r) (Req.b r))
  | 0x21#8 => .ok (.navEntryat (Req.a r) (Req.b r))
  | 0x22#8 => .ok (.navF2p (Req.a r))
  | 0x23#8 => .ok (.navP2f (Req.a r))
  | 0x30#8 => .ok (.mmuWalk (Req.a r) (Req.b r))
  | 0x31#8 => .ok (.mmuRead (Req.a r) (Req.b r))
  | 0x32#8 => .ok (.mmuWrite (Req.a r) (Req.b r))
  | 0x33#8 => .ok (.mmuSetroot (Req.a r))
  | 0x34#8 => .ok .mmuGetroot
  | op => .error (.reservedOp op)

/-- The operation number of an instruction, column `OP` of R88. -/
def Instr.op : Instr → Byte
  | .pteVget _ => 0x00
  | .pteVset _ => 0x01
  | .pteVclr _ => 0x02
  | .pteRget _ => 0x04
  | .pteRset _ => 0x05
  | .pteRclr _ => 0x06
  | .pteWget _ => 0x08
  | .pteWset _ => 0x09
  | .pteWclr _ => 0x0A
  | .pteDget _ => 0x0C
  | .pteDset _ => 0x0D
  | .pteDclr _ => 0x0E
  | .ptePpnget _ => 0x10
  | .ptePpnset _ _ => 0x11
  | .navIndex _ _ => 0x20
  | .navEntryat _ _ => 0x21
  | .navF2p _ => 0x22
  | .navP2f _ => 0x23
  | .mmuWalk _ _ => 0x30
  | .mmuRead _ _ => 0x31
  | .mmuWrite _ _ => 0x32
  | .mmuSetroot _ => 0x33
  | .mmuGetroot => 0x34

/-- The request word of an instruction, unused fields 0 (R84, R88). -/
def encode : Instr → Req
  | .pteVget a => Req.pack 0x00 a 0
  | .pteVset a => Req.pack 0x01 a 0
  | .pteVclr a => Req.pack 0x02 a 0
  | .pteRget a => Req.pack 0x04 a 0
  | .pteRset a => Req.pack 0x05 a 0
  | .pteRclr a => Req.pack 0x06 a 0
  | .pteWget a => Req.pack 0x08 a 0
  | .pteWset a => Req.pack 0x09 a 0
  | .pteWclr a => Req.pack 0x0A a 0
  | .pteDget a => Req.pack 0x0C a 0
  | .pteDset a => Req.pack 0x0D a 0
  | .pteDclr a => Req.pack 0x0E a 0
  | .ptePpnget a => Req.pack 0x10 a 0
  | .ptePpnset a b => Req.pack 0x11 a b
  | .navIndex a b => Req.pack 0x20 a b
  | .navEntryat a b => Req.pack 0x21 a b
  | .navF2p a => Req.pack 0x22 a 0
  | .navP2f a => Req.pack 0x23 a 0
  | .mmuWalk a b => Req.pack 0x30 a b
  | .mmuRead a b => Req.pack 0x31 a b
  | .mmuWrite a b => Req.pack 0x32 a b
  | .mmuSetroot a => Req.pack 0x33 a 0
  | .mmuGetroot => Req.pack 0x34 0 0

/-- What the decoder reads from an instruction whose bits are `w`, numbered as spec/opcode_table.json numbers them:
one 136-bit request word, bits above `nbits` zero. -/
def decodeTableWord (nbits w : Nat) : Option Instr :=
  match decode (BitVec.ofNat 136 (w % 2 ^ nbits)) with
  | .ok i => some i
  | .error _ => none

end Sys2Proof
end

