-- ==== Sys2Proof/Machine/State.lean ====
section
/-! DEFINITION. The whole state of the machine as plain data, the state after reset, and the reasons a step can stop
(spec/10_state.md R20 to R36). -/

namespace Sys2Proof.Machine

/-- `PHASE` (R24). -/
inductive Phase where
  | idle
  | walk
  | hwait
  | perm
  | pwait
  | xfer
  | halt
  deriving DecidableEq, Repr

/-- `LEVEL`, legal values 0, 1, 2 (R11, R22, R25). The 2-bit value 3 is never produced. Log 20. -/
inductive Level where
  | l0
  | l1
  | l2
  deriving DecidableEq, Repr

/-- `OPC`: the operation number of the access in progress, one of 30, 31, 32 (R25, R152). Log 20. -/
inductive AccessOp where
  | walk
  | read
  | write
  deriving DecidableEq, Repr

/-- `CAUSE` (R27), numbered in `Cause.code`. Log 20. -/
inductive Cause where
  | none
  | badAddress
  | outOfMemory
  | initFailure
  | abort
  deriving DecidableEq, Repr

/-- `ABORT_REASON` (60_exceptions.md R215), numbered in `AbortReason.code`. Log 20. -/
inductive AbortReason where
  | none
  | illegalOp
  | misalignedFrame
  | frameRange
  | ppnRange
  | badLevel
  | badIndex
  | rootUnset
  | envAssert
  deriving DecidableEq, Repr

/-- The conditions `Terminate(c)` may carry (60_exceptions.md R216). -/
inductive TermCause where
  | badAddress
  | outOfMemory
  | initFailure
  deriving DecidableEq, Repr

/-- How a handler call ends: `done` or `terminate(c)` (30_encoding.md R87). -/
inductive Completion where
  | done
  | terminate (c : TermCause)
  deriving DecidableEq, Repr

/-- A fault request on the fault port (30_encoding.md R86 `FREQ`). -/
structure FaultRequest where
  virtualAddress : Word
  level          : Level
  pageTable      : Word
  deriving DecidableEq, Repr

/-- What the walker did, in order (20_memory.md R66): `fetch a` is `MemRead(a, 8)`, `load a` is `MemRead(a, 1)`,
`store a v` is `MemWrite(a, 1, v)`, `call r` is a fault request sent to the handler. Log 9. -/
inductive Event where
  | fetch (a : Pa)
  | load (a : Pa)
  | store (a : Pa) (v : Byte)
  | call (r : FaultRequest)
  deriving DecidableEq, Repr

/-- One thing software around the block can do to the frame memory or to the environment state: the allocator's
procedures (40_frame_pool_env.md R110 to R113), the two access widths (20_memory.md R54), and a write of one piece of
the environment state (00_scope.md R7, 60_exceptions.md R221). Both the host and an outside handler can do them. -/
inductive EnvAction where
  | init
  | alloc
  | free (frame : Word)
  | usedCount
  | memRead1 (a : Word)
  | memRead8 (a : Word)
  | memWrite1 (a : Word) (v : Byte)
  | memWrite8 (a v : Word)
  | writeAlloc (f : Ppn) (allocated : Bool)
  | writeLive (n : Nat)
  | writeRefcnt (f : Ppn) (n : Nat)
  deriving DecidableEq, Repr

/-- One thing an outside handler does in its turn (60_exceptions.md R221). -/
inductive AgentAction where
  | env (a : EnvAction)
  /-- A request to the block, which the contract forbids: the block is not `IDLE`, so the handler waits for ever
  (30_encoding.md R96, U7). -/
  | request (r : Req)
  deriving DecidableEq, Repr

/-- One turn of an outside handler: what it does, then the completion word `FRSP` it sends (30_encoding.md R87). -/
structure AgentTurn where
  actions : List AgentAction
  frsp    : BitVec 4
  deriving DecidableEq, Repr

/-- `HANDLER`: which agent answers the fault port (00_scope.md R6, 10_state.md R34). Log 2. -/
inductive Handler where
  /-- The default (60_exceptions.md R222). -/
  | null
  /-- `cow_handler` (44_fork_cow_env.md R193). -/
  | cow
  /-- An agent outside the machine, whose turns are `State.agentTurns` (60_exceptions.md R221). -/
  | agent
  deriving DecidableEq, Repr

/-- One action of the host (70_reset_and_hazards.md R247). Log 7. -/
inductive HostAction where
  | request (r : Req)
  | env (a : EnvAction)
  | forkCopy
  | forkCopyOnWrite
  /-- The host ends the process between operations (60_exceptions.md R216 (b), 92_eei_decisions.md D24): how
  `INIT_FAILURE` reaches the block from the environment. Log 22. -/
  | terminate (c : TermCause)
  | reset
  deriving DecidableEq, Repr

/-- The frame memory: (address, byte) pairs, addresses strictly rising, no byte 0 listed. An address that is not
listed reads as 0, the spec's reset content (R30, D9). `Memory.wf` of Machine/Ops.lean says the form. -/
abbrev Memory := List Host.Cell

/-- What the walker, the handler and the host share (R20, R30, R33): the frame memory, and the environment's
allocation set (frame numbers, strictly rising), live-count and reference counts ((frame, count) pairs, frames
strictly rising, no count 0 listed). -/
structure Pool where
  mem      : Memory
  allocSet : List Nat
  live     : Nat
  refcnt   : List (Nat × Nat)
  deriving DecidableEq, Repr

/-- The state (R20). The fields from `lastPpn` on are the two parameters and the model's own: see INVENTORY.md. -/
structure State where
  /-- `ROOT` (R23). -/
  root        : Ppn
  /-- `ROOT_SET` (R23). -/
  rootSet     : Bool
  /-- `PHASE` (R24). -/
  phase       : Phase
  /-- `OPC` (R25). -/
  opc         : AccessOp
  /-- `VA` (R25). -/
  va          : Word
  /-- `WDATA` (R25). -/
  wdata       : Byte
  /-- `LEVEL` (R25). -/
  level       : Level
  /-- `TABLE` (R25). -/
  table       : Ppn
  /-- `EADDR` (R25). -/
  eaddr       : Pa
  /-- `ENTRY` (R25). -/
  entry       : Word
  /-- `FAULTED` (R26). -/
  faulted     : Bool
  /-- `FATAL` (R27). -/
  fatal       : Bool
  /-- `CAUSE` (R27). -/
  cause       : Cause
  /-- `ABORT_REASON` (R27). -/
  abortReason : AbortReason
  /-- `DIAG_VALID` (R28). -/
  diagValid   : Bool
  /-- `DIAG_VA` (R28). -/
  diagVa      : Word
  /-- `DIAG_LEVEL` (R28). -/
  diagLevel   : Level
  /-- `DIAG_PPN` (R28). -/
  diagPpn     : Ppn
  /-- `DIAG_FLAGS` (R28). -/
  diagFlags   : BitVec 4
  /-- `Mem`, `ALLOC`, `LIVE`, `REFCNT` (R30, R33). -/
  pool        : Pool
  /-- The parameter `MAX_PAGES`, less 1 (00_scope.md R6): no step changes it. Log 1. -/
  lastPpn     : Ppn
  /-- The parameter `HANDLER` (R34): no step changes it. Log 2. -/
  handler     : Handler
  /-- The turns an outside handler will take, the next one first; none left means it never completes. Log 2. -/
  agentTurns  : List AgentTurn
  /-- The host's pending actions, the next one first. Log 7. -/
  hostQueue   : List HostAction
  /-- The response port (30_encoding.md R85): what the last accepted request was answered, if it was. Log 8. -/
  rsp         : Option Word
  /-- What the walker did since it accepted the last request. Log 9. -/
  events      : List Event
  /-- What the host's last environment action gave it, if anything. Log 10. -/
  hostVal     : Option Nat
  deriving DecidableEq, Repr

/-- Why the machine has no next state. -/
inductive Fault where
  /-- Raised by a step in `HALT` whose next host action is not reset: 43_translator.md T13 "no step exists",
  60_exceptions.md R217, U13 `stuck`. Safe. Log 12. -/
  | halted
  /-- Raised by a step in `HWAIT` or `PWAIT` when the outside handler has no turn left: it never completes
  (70_reset_and_hazards.md R246, U8 `stuck`). Safe. Log 13. -/
  | handlerSilent
  /-- Raised by a handler turn that issues a request to the block: deadlock (30_encoding.md R96,
  70_reset_and_hazards.md R245, U7 `stuck`). Safe. Log 13. -/
  | handlerReentry
  /-- Raised by a handler completion `terminate(c)` whose `c` is 0 or 4 to 7: "not legal values of `c`"
  (60_exceptions.md R216). Safe. Log 14. -/
  | illegalCompletion
  /-- Raised by an access of the host or of a handler outside the populated addresses, which 20_memory.md R54
  requires them not to make, and by their direct write of `ALLOC` or `REFCNT` for a frame number of `MAX_PAGES` or
  more, for which 10_state.md R33 has no element and the spec no effect (DESIGN CHOICE); also by a re-fetch or a COW
  handler call at such an address, which no run reaches. Safe. Log 15, 24. -/
  | outsidePool
  /-- Raised by a fork that follows an entry to a table on its own path: "a tree with a cycle does not terminate"
  (44_fork_cow_env.md R191), U11 `stuck`. Safe. Log 18. -/
  | forkCycle
  /-- Raised in `PERM` or `XFER` with `OPC` = 30, for which 43_translator.md R153 has no row; no run reaches it
  (`Inv` of Safety.lean). Safe. Log 20. -/
  | noRow
  deriving DecidableEq, Repr

/-- Why an instruction has no meaning. -/
inductive Refusal where
  /-- Raised by exec's arm of an instruction that the model does not give a meaning yet: there is none. Safe. -/
  | notModelled (mnemonic : String)
  deriving DecidableEq, Repr

/-- The frame memory and the environment state after reset (R20): every byte 0, nothing allocated, every count 0. -/
def Pool.reset : Pool where
  mem      := []
  allocSet := []
  live     := 0
  refcnt   := []

/-- The machine right after reset (R20, 70_reset_and_hazards.md R240). `root`, the latches `opc` to `entry` and
`diagVa` to `diagFlags` are unspecified there: their values are DESIGN CHOICES (log 4, 5, 6; unsafe). `lastPpn` is the
open parameter, `handler` its default. -/
def State.reset : State where
  root        := 0
  rootSet     := false
  phase       := .idle
  opc         := .walk
  va          := 0
  wdata       := 0
  level       := .l2
  table       := 0
  eaddr       := 0
  entry       := 0
  faulted     := false
  fatal       := false
  cause       := .none
  abortReason := .none
  diagValid   := false
  diagVa      := 0
  diagLevel   := .l0
  diagPpn     := 0
  diagFlags   := 0
  pool        := Pool.reset
  lastPpn     := Config.lastPpn
  handler     := .null
  agentTurns  := []
  hostQueue   := []
  rsp         := none
  events      := []
  hostVal     := none

end Sys2Proof.Machine
end

