-- ==== Sys2Proof/Machine/Flags.lean ====
section
/-! DEFINITION. The flags and the PPN field inside a page-table entry (spec/30_encoding.md R81, R93; 41_pte_codec.md
R120 to R133), the fault predicate (43_translator.md R151), and the numbers of the status registers (10_state.md R27,
30_encoding.md R94, R95). -/

namespace Sys2Proof.Machine

/-- `V_MASK` (R93). -/
def vMask : Word := 0x0000000000000001
/-- `R_MASK` (R93). -/
def rMask : Word := 0x0000000000000002
/-- `W_MASK` (R93). -/
def wMask : Word := 0x0000000000000004
/-- `D_MASK` (R93). -/
def dMask : Word := 0x0000000000000100
/-- `PPN_MASK` (R93). -/
def ppnMask : Word := 0xFFFFFFFFFFF00000

/-- `get_valid` (R120). -/
def getValid (e : Word) : Bool := e.getLsbD 0
/-- `set_valid` (R121). -/
def setValid (e : Word) : Word := e ||| vMask
/-- `clear_valid` (R122). -/
def clearValid (e : Word) : Word := e &&& ~~~vMask

/-- `get_read` (R123). -/
def getRead (e : Word) : Bool := e.getLsbD 1
/-- `set_read` (R124). -/
def setRead (e : Word) : Word := e ||| rMask
/-- `clear_read` (R125). -/
def clearRead (e : Word) : Word := e &&& ~~~rMask

/-- `get_write` (R126). -/
def getWrite (e : Word) : Bool := e.getLsbD 2
/-- `set_write` (R127). -/
def setWrite (e : Word) : Word := e ||| wMask
/-- `clear_write` (R128). -/
def clearWrite (e : Word) : Word := e &&& ~~~wMask

/-- `get_deferred` (R129). -/
def getDeferred (e : Word) : Bool := e.getLsbD 8
/-- `set_deferred` (R130). -/
def setDeferred (e : Word) : Word := e ||| dMask
/-- `clear_deferred` (R131). -/
def clearDeferred (e : Word) : Word := e &&& ~~~dMask

/-- `get_ppn`: bits 63:20 (R132). -/
def getPpn (e : Word) : Ppn := e.extractLsb' 20 44
/-- `set_ppn`: "clears the field first, then ORs the shifted value" (R133). -/
def setPpn (e : Word) (p : Ppn) : Word := (e &&& ~~~ppnMask) ||| (p.setWidth 64 <<< 20)

/-- The result of a get operation: the flag, zero-extended (R120, R85). -/
def flagWord (b : Bool) : Word := (BitVec.ofBool b).setWidth 64

/-- The fault predicate `is_fault` (43_translator.md R151). -/
def isFault (e : Word) : Level → Bool
  | .l2 => !getValid e || getRead e || getWrite e
  | .l1 => !getValid e || getRead e || getWrite e
  | .l0 => !getValid e || (!getRead e && !getWrite e)

/-- `need(OPC, e)`: the permission bit a read or a write needs; a walk needs none (43_translator.md R153, R160). -/
def need (e : Word) : AccessOp → Option Bool
  | .walk => none
  | .read => some (getRead e)
  | .write => some (getWrite e)

/-- `DIAG_FLAGS` of an entry: `{deferred, write, read, valid}` (10_state.md R28). -/
def diagFlagsOf (e : Word) : BitVec 4 :=
  ((BitVec.ofBool (getDeferred e) ++ BitVec.ofBool (getWrite e)) ++ BitVec.ofBool (getRead e))
    ++ BitVec.ofBool (getValid e)

/-- The 2 bits of a level (00_scope.md R11). -/
def Level.code : Level → BitVec 2
  | .l0 => 0
  | .l1 => 1
  | .l2 => 2

/-- The number of a level. -/
def Level.num : Level → Nat
  | .l0 => 0
  | .l1 => 1
  | .l2 => 2

/-- The level below, `LEVEL - 1`; none below the leaf level (43_translator.md R155, R156). -/
def Level.below : Level → Option Level
  | .l2 => some .l1
  | .l1 => some .l0
  | .l0 => none

/-- The operation number held in `OPC` (10_state.md R25, 30_encoding.md R88). -/
def AccessOp.code : AccessOp → Byte
  | .walk => 0x30
  | .read => 0x31
  | .write => 0x32

/-- The number of a condition (10_state.md R27). -/
def Cause.code : Cause → BitVec 3
  | .none => 0
  | .badAddress => 1
  | .outOfMemory => 2
  | .initFailure => 3
  | .abort => 4

/-- The number of an abort reason (60_exceptions.md R215). -/
def AbortReason.code : AbortReason → BitVec 4
  | .none => 0
  | .illegalOp => 1
  | .misalignedFrame => 2
  | .frameRange => 3
  | .ppnRange => 4
  | .badLevel => 5
  | .badIndex => 6
  | .rootUnset => 7
  | .envAssert => 8

/-- The condition a `Terminate(c)` puts into `CAUSE` (60_exceptions.md R216). -/
def TermCause.cause : TermCause → Cause
  | .badAddress => .badAddress
  | .outOfMemory => .outOfMemory
  | .initFailure => .initFailure

/-- The completion a word on the fault port encodes: bit 3 = 0 is `done` whatever bits 2:0 are, bit 3 = 1 is
`terminate(c)` with `c` = bits 2:0, which must be 1, 2 or 3 (30_encoding.md R87, 60_exceptions.md R216). -/
def Completion.ofFrsp (w : BitVec 4) : Option Completion :=
  if w.getLsbD 3 then
    match w.extractLsb' 0 3 with
    | 1#3 => some (.terminate .badAddress)
    | 2#3 => some (.terminate .outOfMemory)
    | 3#3 => some (.terminate .initFailure)
    | _ => none
  else some .done

/-- The word that encodes a completion, ignored bits 0 (30_encoding.md R87). -/
def Completion.toFrsp : Completion → BitVec 4
  | .done => 0
  | .terminate .badAddress => 0x9
  | .terminate .outOfMemory => 0xA
  | .terminate .initFailure => 0xB

/-- The 130-bit word of a fault request (30_encoding.md R86). -/
def FaultRequest.word (r : FaultRequest) : BitVec 130 :=
  (r.virtualAddress ++ r.level.code) ++ r.pageTable

/-- The terminal status word `{FATAL, CAUSE[2:0], ABORT_REASON[3:0]}` (30_encoding.md R95). -/
def State.statusWord (s : State) : Byte :=
  (BitVec.ofBool s.fatal ++ s.cause.code) ++ s.abortReason.code

/-- The diagnostic record as a word (30_encoding.md R94). -/
def State.diagWord (s : State) : BitVec 115 :=
  (((BitVec.ofBool s.diagValid ++ s.diagVa) ++ s.diagLevel.code) ++ s.diagPpn) ++ s.diagFlags

end Sys2Proof.Machine
end

