-- ==== Sys2Proof/Machine/Operands.lean ====
section
/-! DEFINITION. The operand forms (spec/30_encoding.md R90) and the navigator's functions (42_navigator.md R140 to
R144), on addresses and frame numbers. -/

namespace Sys2Proof.Machine

/-- `MAX_PAGES`, from the number of the last frame (00_scope.md R6). -/
def maxPages (last : Ppn) : Nat := last.toNat + 1

/-- The number of bytes of frame memory, `MAX_PAGES` * 4096 (20_memory.md R50). -/
def poolBytes (last : Ppn) : Nat := maxPages last * Config.pageSize

/-- Whether a frame number names a frame: `p < MAX_PAGES` (20_memory.md R57). -/
def inPool (last p : Ppn) : Bool := decide (p.toNat < maxPages last)

/-- `index_at(va, level)`: the 9 bits from bit `9 * level + 12` up (42_navigator.md R140). -/
def indexAt (va : Word) (l : Level) : Index := va.extractLsb' (9 * l.num + 12) 9

/-- The base address of a frame, `p << 12` (42_navigator.md R143), 56 bits. -/
def frameBase (p : Ppn) : Pa := p.setWidth 56 <<< 12

/-- The same as a 64-bit operand or result (00_scope.md R11: carried zero-extended). -/
def frameWord (p : Ppn) : Word := (frameBase p).setWidth 64

/-- `entry_at(frame, index)`: base + 8 * index (42_navigator.md R141). -/
def entryAt (p : Ppn) (i : Index) : Pa := frameBase p + 8 * i.setWidth 56

/-- The physical address of a byte: `(p << 12) | va[11:0]` (43_translator.md R161). -/
def dataAddr (p : Ppn) (va : Word) : Pa := frameBase p ||| (va.extractLsb' 0 12).setWidth 56

/-- A level operand: all 64 bits compared, 0, 1 or 2 (R90, R140). -/
def levelOperand (b : Word) : Except AbortReason Level :=
  if b = 0 then .ok .l0
  else if b = 1 then .ok .l1
  else if b = 2 then .ok .l2
  else .error .badLevel

/-- An index operand: all 64 bits compared, 0 .. 511 (R90, R141). -/
def indexOperand (b : Word) : Except AbortReason Index :=
  if b.toNat < Config.numPteEntries then .ok (b.setWidth 9) else .error .badIndex

/-- The PPN operand of `PTE.PPNSET`: all 64 bits compared, 0 .. 2^44 - 1 (R90, R133). -/
def ppnOperand (b : Word) : Except AbortReason Ppn :=
  if b.toNat < 2 ^ 44 then .ok (b.setWidth 44) else .error .ppnRange

/-- The PPN operand of `NAV.P2F`: all 64 bits compared, below `MAX_PAGES` (R90, R143). -/
def poolPpnOperand (last : Ppn) (a : Word) : Except AbortReason Ppn :=
  if a.toNat < maxPages last then .ok (a.setWidth 44) else .error .frameRange

/-- A frame operand, as its frame number: bits 11:0 zero, checked first, then `A >> 12` below `MAX_PAGES` (R90). -/
def frameOperand (last : Ppn) (a : Word) : Except AbortReason Ppn :=
  if a.extractLsb' 0 12 = 0 then poolPpnOperand last (a >>> 12) else .error .misalignedFrame

end Sys2Proof.Machine
end

