-- ==== Sys2Proof/Machine/Ops.lean ====
section
/-! DEFINITION. The named operations over memory, over the registers and over the ports: `MemRead` and `MemWrite`
(spec/20_memory.md R52, R54), accepting and answering a request (30_encoding.md R85, R96), calling the fault handler
and returning from it, and the three ways to stop for good (60_exceptions.md R214 to R219). -/

namespace Sys2Proof.Machine

/-! Sparse maps from numbers to values: what is not listed has the value `d`. -/

/-- The value at `k`. -/
def sparseGet {α : Type} (d : α) : List (Nat × α) → Nat → α
  | [], _ => d
  | c :: m, k => if c.1 = k then c.2 else sparseGet d m k

/-- The map with value `v` at `k`, in canonical form: rising keys, no value `d` listed. -/
def sparsePut {α : Type} [DecidableEq α] (d : α) : List (Nat × α) → Nat → α → List (Nat × α)
  | [], k, v => if v = d then [] else [(k, v)]
  | c :: m, k, v =>
    if k < c.1 then (if v = d then c :: m else (k, v) :: c :: m)
    else if k = c.1 then (if v = d then m else (k, v) :: m)
    else c :: sparsePut d m k v

/-- The canonical form: keys strictly rising, no value `d` listed. -/
abbrev SparseWf {α : Type} (d : α) (m : List (Nat × α)) : Prop :=
  m.Pairwise (fun x y => x.1 < y.1) ∧ ∀ c ∈ m, c.2 ≠ d

/-! Frame memory. -/

/-- The canonical form of memory. -/
abbrev Memory.wf (m : Memory) : Prop := SparseWf (0 : Byte) m

/-- Every listed address is populated: below `MAX_PAGES` * 4096 (20_memory.md R50). -/
abbrev Memory.inside (last : Ppn) (m : Memory) : Prop := ∀ c ∈ m, c.1 < poolBytes last

/-- `MemRead(a, 1)` (R54). -/
def memRead1 (m : Memory) (a : Nat) : Byte := sparseGet 0 m a

/-- `MemWrite(a, 1, v)` (R54). -/
def memWrite1 (m : Memory) (a : Nat) (v : Byte) : Memory := sparsePut 0 m a v

/-- `MemRead(a, 8)`, little-endian (R52). -/
def memRead8 (m : Memory) (a : Nat) : Word :=
  memRead1 m (a + 7) ++ memRead1 m (a + 6) ++ memRead1 m (a + 5) ++ memRead1 m (a + 4)
    ++ memRead1 m (a + 3) ++ memRead1 m (a + 2) ++ memRead1 m (a + 1) ++ memRead1 m a

/-- `MemWrite(a, 8, v)`, little-endian: `v[7:0]` at `a`, up to `v[63:56]` at `a + 7` (R52). -/
def memWrite8 (m : Memory) (a : Nat) (v : Word) : Memory :=
  let m := memWrite1 m a (v.extractLsb' 0 8)
  let m := memWrite1 m (a + 1) (v.extractLsb' 8 8)
  let m := memWrite1 m (a + 2) (v.extractLsb' 16 8)
  let m := memWrite1 m (a + 3) (v.extractLsb' 24 8)
  let m := memWrite1 m (a + 4) (v.extractLsb' 32 8)
  let m := memWrite1 m (a + 5) (v.extractLsb' 40 8)
  let m := memWrite1 m (a + 6) (v.extractLsb' 48 8)
  memWrite1 m (a + 7) (v.extractLsb' 56 8)

/-- Whether `a` is a byte of frame `f`. -/
def inFrame (f : Ppn) (a : Nat) : Bool := decide (a / Config.pageSize = f.toNat)

/-- Writes 0 to the 4096 bytes of a frame (40_frame_pool_env.md R112): none of them is listed any more. -/
def zeroFrame (m : Memory) (f : Ppn) : Memory := m.filter (fun c => !inFrame f c.1)

/-- `copy_frame(dst, src)`: the 4096 bytes of `src` written to `dst` (44_fork_cow_env.md R190 opening section). The
unlisted bytes of `src` are the zeros the first step writes. -/
def copyFrame (m : Memory) (dst src : Ppn) : Memory :=
  (m.filter (fun c => inFrame src c.1)).foldl
    (fun acc c => memWrite1 acc (dst.toNat * Config.pageSize + c.1 % Config.pageSize) c.2)
    (zeroFrame m dst)

/-! The command port. -/

/-- A request is accepted in `IDLE`, and then nothing is answered or recorded yet; in every other phase it is not
taken and nothing happens: the requester waits (30_encoding.md R96, D22). Log 8, 9, 11. -/
def accepting (k : State → State) (s : State) : Host.Outcome State Fault Refusal :=
  match s.phase with
  | .idle => .next (k { s with rsp := none, events := [] })
  | _ => .next s

/-- `respond(r)`: the response is given and `PHASE <- IDLE` (00_scope.md R10). -/
def respond (r : Word) (s : State) : State :=
  { s with rsp := some r, phase := .idle }

/-- The record of one more event of the walker (20_memory.md R66). -/
def note (e : Event) (s : State) : State :=
  { s with events := s.events ++ [e] }

/-! Stopping for good. -/

/-- `raise Fatal(BAD_ADDRESS, diag(va, l, e))`: the diagnostic is written, the machine halts, no response
(60_exceptions.md R214, 43_translator.md R153). -/
def raiseFatal (va : Word) (l : Level) (e : Word) (s : State) : State :=
  { s with
    diagValid := true
    diagVa := va
    diagLevel := l
    diagPpn := getPpn e
    diagFlags := diagFlagsOf e
    cause := .badAddress
    fatal := true
    phase := .halt }

/-- `raise Abort(reason)` (60_exceptions.md R215). -/
def raiseAbort (r : AbortReason) (s : State) : State :=
  { s with cause := .abort, abortReason := r, fatal := true, phase := .halt }

/-- `raise Terminate(c)` (60_exceptions.md R216). -/
def raiseTerminate (c : TermCause) (s : State) : State :=
  { s with cause := c.cause, fatal := true, phase := .halt }

/-- Goes on with a checked operand, or aborts with the reason the check gives (30_encoding.md R90). -/
def withOperand {α : Type} (x : Except AbortReason α) (k : α → State → State) (s : State) : State :=
  match x with
  | .ok v => k v s
  | .error r => raiseAbort r s

/-! The fault port: taking a fault and returning from it. -/

/-- The request that stands on the fault port while the handler runs, computed from the latches, which stay as they
are: level 0 in the permission round (60_exceptions.md R218, 30_encoding.md R86). -/
def faultRequest (s : State) (l : Level) : FaultRequest where
  virtualAddress := s.va
  level          := l
  pageTable      := frameWord s.table

/-- `FREQ` as the fault port shows it: a request in `HWAIT` and `PWAIT`, none otherwise. -/
def State.freq (s : State) : Option FaultRequest :=
  match s.phase with
  | .hwait => some (faultRequest s s.level)
  | .pwait => some (faultRequest s .l0)
  | _ => none

/-- Calling the handler (60_exceptions.md R218; T4a, T7b): the round has faulted, the request is sent, the walker
waits in `wait`. The latches stay. -/
def callHandler (l : Level) (wait : Phase) (s : State) : State :=
  note (.call (faultRequest s l)) { s with faulted := true, phase := wait }

/-- The walker's fetch of the entry at `a`: `EADDR <- a`, `ENTRY <- MemRead(a, 8)` (43_translator.md T4, T8). -/
def fetchEntry (a : Pa) (s : State) : State :=
  note (.fetch a) { s with eaddr := a, entry := memRead8 s.pool.mem a.toNat }

/-- Returning from the handler to the walk (60_exceptions.md R219; T5): nothing is restored, the same level is
evaluated again. -/
def resumeWalk (s : State) : State :=
  { s with phase := .walk }

/-- Returning from the handler to the permission check (60_exceptions.md R219; T8): the entry is fetched again. -/
def resumePerm (s : State) : State :=
  fetchEntry s.eaddr { s with phase := .perm }

end Sys2Proof.Machine
end

