-- ==== Sys2Proof/Machine/Codec.lean ====
section
/-! DEFINITION. The 14 PTE codec operations (spec/41_pte_codec.md R120 to R133): each answers a function of its
operands and touches nothing else (R134). -/

namespace Sys2Proof.Machine

/-- `PTE.VGET` (R120). -/
def execPteVget (entry : Word) (s : State) : Host.Outcome State Fault Refusal :=
  accepting (respond (flagWord (getValid entry))) s

/-- `PTE.VSET` (R121). -/
def execPteVset (entry : Word) (s : State) : Host.Outcome State Fault Refusal :=
  accepting (respond (setValid entry)) s

/-- `PTE.VCLR` (R122). -/
def execPteVclr (entry : Word) (s : State) : Host.Outcome State Fault Refusal :=
  accepting (respond (clearValid entry)) s

/-- `PTE.RGET` (R123). -/
def execPteRget (entry : Word) (s : State) : Host.Outcome State Fault Refusal :=
  accepting (respond (flagWord (getRead entry))) s

/-- `PTE.RSET` (R124). -/
def execPteRset (entry : Word) (s : State) : Host.Outcome State Fault Refusal :=
  accepting (respond (setRead entry)) s

/-- `PTE.RCLR` (R125). -/
def execPteRclr (entry : Word) (s : State) : Host.Outcome State Fault Refusal :=
  accepting (respond (clearRead entry)) s

/-- `PTE.WGET` (R126). -/
def execPteWget (entry : Word) (s : State) : Host.Outcome State Fault Refusal :=
  accepting (respond (flagWord (getWrite entry))) s

/-- `PTE.WSET` (R127). -/
def execPteWset (entry : Word) (s : State) : Host.Outcome State Fault Refusal :=
  accepting (respond (setWrite entry)) s

/-- `PTE.WCLR` (R128). -/
def execPteWclr (entry : Word) (s : State) : Host.Outcome State Fault Refusal :=
  accepting (respond (clearWrite entry)) s

/-- `PTE.DGET` (R129). -/
def execPteDget (entry : Word) (s : State) : Host.Outcome State Fault Refusal :=
  accepting (respond (flagWord (getDeferred entry))) s

/-- `PTE.DSET` (R130). -/
def execPteDset (entry : Word) (s : State) : Host.Outcome State Fault Refusal :=
  accepting (respond (setDeferred entry)) s

/-- `PTE.DCLR` (R131). -/
def execPteDclr (entry : Word) (s : State) : Host.Outcome State Fault Refusal :=
  accepting (respond (clearDeferred entry)) s

/-- `PTE.PPNGET` (R132). -/
def execPtePpnget (entry : Word) (s : State) : Host.Outcome State Fault Refusal :=
  accepting (respond ((getPpn entry).setWidth 64)) s

/-- `PTE.PPNSET` (R133): a `B` of 2^44 or more aborts with `PPN_RANGE`. -/
def execPtePpnset (entry ppn : Word) (s : State) : Host.Outcome State Fault Refusal :=
  accepting (withOperand (ppnOperand ppn) fun p => respond (setPpn entry p)) s

end Sys2Proof.Machine
end

