-- ==== Sys2Proof/Machine/Navigator.lean ====
section
/-! DEFINITION. The 4 navigator operations (spec/42_navigator.md R140 to R143): functions of the operands and of
`MAX_PAGES` (R146), after the operand checks of 30_encoding.md R90 in the order of 60_exceptions.md R223. -/

namespace Sys2Proof.Machine

/-- `NAV.INDEX` (R140). -/
def execNavIndex (vaddr level : Word) (s : State) : Host.Outcome State Fault Refusal :=
  accepting (withOperand (levelOperand level) fun l => respond ((indexAt vaddr l).setWidth 64)) s

/-- `NAV.ENTRYAT` (R141): the frame is checked before the index. -/
def execNavEntryat (table index : Word) (s : State) : Host.Outcome State Fault Refusal :=
  accepting (withOperand (frameOperand s.lastPpn table) fun f =>
    withOperand (indexOperand index) fun i => respond ((entryAt f i).setWidth 64)) s

/-- `NAV.F2P` (R142). -/
def execNavF2p (frame : Word) (s : State) : Host.Outcome State Fault Refusal :=
  accepting (withOperand (frameOperand s.lastPpn frame) fun f => respond (f.setWidth 64)) s

/-- `NAV.P2F` (R143). -/
def execNavP2f (ppn : Word) (s : State) : Host.Outcome State Fault Refusal :=
  accepting (withOperand (poolPpnOperand s.lastPpn ppn) fun f => respond (frameWord f)) s

end Sys2Proof.Machine
end

