-- ==== Sys2Proof/Machine/Env.lean ====
section
/-! DEFINITION. The software around the block as operations on the shared pool: the frame allocator (spec/
40_frame_pool_env.md R110 to R113), the host's and a handler's direct accesses (70_reset_and_hazards.md R247,
60_exceptions.md R221), and the two forks (44_fork_cow_env.md R190 to R192). None of them sees the walker's state. -/

namespace Sys2Proof.Machine

/-- How an environment procedure ends the process (60_exceptions.md R215, R216). -/
inductive Stop where
  | terminate (c : TermCause)
  | abort (r : AbortReason)
  deriving DecidableEq, Repr

/-- What an environment procedure answers: a value and the pool it leaves, an end of the process with the pool as it
stood then (what was already written stays), or no outcome at all. -/
inductive PoolResult (α : Type) where
  | ok (v : α) (p : Pool)
  | stop (w : Stop) (p : Pool)
  | fault (f : Fault)
  deriving DecidableEq, Repr

/-- One procedure after another. -/
def PoolResult.andThen {α β : Type} (r : PoolResult α) (k : α → Pool → PoolResult β) : PoolResult β :=
  match r with
  | .ok v p => k v p
  | .stop w p => .stop w p
  | .fault f => .fault f

/-! The frame allocator. -/

/-- The allocation set with a frame added; rising order is kept. -/
def setInsert : List Nat → Nat → List Nat
  | [], k => [k]
  | x :: xs, k => if k < x then k :: x :: xs else if k = x then x :: xs else x :: setInsert xs k

/-- The allocation set without a frame. -/
def setErase (xs : List Nat) (k : Nat) : List Nat := xs.filter (fun x => !decide (x = k))

/-- "the least PPN in 0 .. MAX_PAGES-1 that is not in ALLOC" (R111): some number up to the size of the set is free. -/
def leastFree (last : Ppn) (xs : List Nat) : Option Ppn :=
  match (List.range (xs.length + 1)).find? (fun k => !xs.contains k) with
  | some k => if k < maxPages last then some (BitVec.ofNat 44 k) else none
  | none => none

/-- `alloc()` (R111). With `LIVE` < `MAX_PAGES` and no frame free, which only a direct write of `LIVE` or `ALLOC` can
bring about, the pool is exhausted too. Log 19. -/
def allocFrame (last : Ppn) (p : Pool) : PoolResult Ppn :=
  if p.live = maxPages last then .stop (.terminate .outOfMemory) p
  else
    match leastFree last p.allocSet with
    | some f => .ok f { p with allocSet := setInsert p.allocSet f.toNat, live := p.live + 1 }
    | none => .stop (.terminate .outOfMemory) p

/-- `free(frame)` (R112). -/
def freeFrame (last : Ppn) (frame : Word) (p : Pool) : PoolResult Unit :=
  match frameOperand last frame with
  | .error r => .stop (.abort r) p
  | .ok f =>
    if p.allocSet.contains f.toNat then
      .ok () { p with
        mem := zeroFrame p.mem f
        allocSet := setErase p.allocSet f.toNat
        live := p.live - 1 }
    else .stop (.abort .envAssert) p

/-- `REFCNT[f]` (10_state.md R33). -/
def refcntOf (p : Pool) (f : Ppn) : Nat := sparseGet 0 p.refcnt f.toNat

/-- `REFCNT[f] <- n`. -/
def setRefcnt (p : Pool) (f : Ppn) (n : Nat) : Pool := { p with refcnt := sparsePut 0 p.refcnt f.toNat n }

/-- Whether the `n` bytes from `a` up are populated, which `MemRead` and `MemWrite` require (20_memory.md R54). -/
def populated (last : Ppn) (a n : Nat) : Bool := decide (a + n ≤ poolBytes last)

/-- One action of the host or of a handler, with the value it gives back, if any. A direct write of `ALLOC` or
`REFCNT` for a frame number of `MAX_PAGES` or more, for which the spec has no effect, stops with `outsidePool`
(DESIGN CHOICE; log 15, 24). `init()` always succeeds (R110, log 22). -/
def envAction (last : Ppn) (p : Pool) : EnvAction → PoolResult (Option Nat)
  | .init => .ok none p
  | .alloc => (allocFrame last p).andThen fun f p => .ok (some (frameWord f).toNat) p
  | .free frame => (freeFrame last frame p).andThen fun _ p => .ok none p
  | .usedCount => .ok (some p.live) p
  | .memRead1 a =>
    if populated last a.toNat 1 then .ok (some (memRead1 p.mem a.toNat).toNat) p else .fault .outsidePool
  | .memRead8 a =>
    if populated last a.toNat 8 then .ok (some (memRead8 p.mem a.toNat).toNat) p else .fault .outsidePool
  | .memWrite1 a v =>
    if populated last a.toNat 1 then .ok none { p with mem := memWrite1 p.mem a.toNat v } else .fault .outsidePool
  | .memWrite8 a v =>
    if populated last a.toNat 8 then .ok none { p with mem := memWrite8 p.mem a.toNat v } else .fault .outsidePool
  | .writeAlloc f b =>
    if inPool last f then
      .ok none { p with allocSet := if b then setInsert p.allocSet f.toNat else setErase p.allocSet f.toNat }
    else .fault .outsidePool
  | .writeLive n => .ok none { p with live := n }
  | .writeRefcnt f n => if inPool last f then .ok none (setRefcnt p f n) else .fault .outsidePool

/-! The forks. -/

/-- `frame_of(e)` as a frame number: the conversion aborts when the entry names no frame (R191). -/
def frameOf (last : Ppn) (e : Word) (p : Pool) : PoolResult Ppn :=
  if inPool last (getPpn e) then .ok (getPpn e) p else .stop (.abort .frameRange) p

/-- The loop over the entries `512 - n` .. 511 of `src`: what `visit` makes of a valid entry, an invalid one as it is,
is written to the same place in `dst` (R191, R192). -/
def forkEntries (visit : Pa → Word → Pool → PoolResult Word) (src dst : Ppn) : Nat → Pool → PoolResult Unit
  | 0, p => .ok () p
  | n + 1, p =>
    let i : Index := BitVec.ofNat 9 (511 - n)
    let e := memRead8 p.mem (entryAt src i).toNat
    (if getValid e then visit (entryAt src i) e p else .ok e p).andThen fun e' p' =>
      forkEntries visit src dst n { p' with mem := memWrite8 p'.mem (entryAt dst i).toNat e' }

/-- `copy_table` and `share_table`: a table of level `l` is allocated before its children, which are visited in index
order; `leaf` says what becomes of a valid leaf entry (R191, R192, D27). `path` holds the tables above `src`: an entry
that leads back to one of them or to `src` closes a cycle, on which the fork does not end (R191, U11). Log 18. -/
def forkTable (last : Ppn) (leaf : Pa → Word → Pool → PoolResult Word) :
    Nat → List Ppn → Ppn → Pool → PoolResult Ppn
  | 0, _, src, p =>
    (allocFrame last p).andThen fun dst p =>
      (forkEntries leaf src dst 512 p).andThen fun _ p => .ok dst p
  | l + 1, path, src, p =>
    (allocFrame last p).andThen fun dst p =>
      (forkEntries (fun _ e p =>
        (frameOf last e p).andThen fun f p =>
          if (src :: path).contains f then .fault .forkCycle
          else (forkTable last leaf l (src :: path) f p).andThen fun child p => .ok (setPpn e child) p)
        src dst 512 p).andThen fun _ p => .ok dst p

/-- A valid leaf entry in the eager copy: a new data frame, the old one's bytes in it (R191). Log 17. -/
def copyLeaf (last : Ppn) (_ : Pa) (e : Word) (p : Pool) : PoolResult Word :=
  (allocFrame last p).andThen fun child p =>
    (frameOf last e p).andThen fun f p =>
      .ok (setPpn e child) { p with mem := copyFrame p.mem child f }

/-- A valid leaf entry in the lazy fork, `a` its address: a writable one is write-protected and marked in both trees
and its frame's count goes up by 2; any other is copied unchanged (R192). Log 17. -/
def shareLeaf (last : Ppn) (a : Pa) (e : Word) (p : Pool) : PoolResult Word :=
  if getWrite e then
    (frameOf last (setDeferred (clearWrite e))
        { p with mem := memWrite8 p.mem a.toNat (setDeferred (clearWrite e)) }).andThen fun f p =>
      .ok (setDeferred (clearWrite e)) (setRefcnt p f (refcntOf p f + 2))
  else .ok e p

/-- What both forks do: the precondition `2 * LIVE <= MAX_PAGES` (R190), then the tree under the active root (D27);
with no root set, reading it aborts (10_state.md R23, log 16). -/
def forkTree (last : Ppn) (leaf : Pa → Word → Pool → PoolResult Word) (rootSet : Bool) (root : Ppn) (p : Pool) :
    PoolResult Ppn :=
  if 2 * p.live ≤ maxPages last then
    if rootSet then
      if inPool last root then forkTable last leaf 2 [] root p else .stop (.abort .frameRange) p
    else .stop (.abort .rootUnset) p
  else .stop (.terminate .outOfMemory) p

/-- `fork_copy()` (R191). -/
def forkCopy (last : Ppn) (rootSet : Bool) (root : Ppn) (p : Pool) : PoolResult Ppn :=
  forkTree last (copyLeaf last) rootSet root p

/-- `fork_copy_on_write()` (R192). -/
def forkCopyOnWrite (last : Ppn) (rootSet : Bool) (root : Ppn) (p : Pool) : PoolResult Ppn :=
  forkTree last (shareLeaf last) rootSet root p

/-- The host ends the process with a condition it names, `INIT_FAILURE` among them (60_exceptions.md R216,
92_eei_decisions.md D24); the pool stays as it is. Log 22. -/
def endProcess (c : TermCause) (p : Pool) : PoolResult Unit := .stop (.terminate c) p

/-- The machine stops as the procedure says (60_exceptions.md R215, R216). -/
def raiseStop (w : Stop) (s : State) : State :=
  match w with
  | .terminate c => raiseTerminate c s
  | .abort r => raiseAbort r s

/-- A procedure the host runs between operations: its value goes to the host; when it ends the process the block goes
from `IDLE` to `HALT` (60_exceptions.md R216 (b)). Log 10. -/
def hostProcedure {α : Type} (r : PoolResult α) (value : α → Option Nat) (s : State) :
    Host.Outcome State Fault Refusal :=
  match r with
  | .ok v p => .next { s with pool := p, hostVal := value v }
  | .stop w p => .next (raiseStop w { s with pool := p, hostVal := none })
  | .fault f => .fault f

end Sys2Proof.Machine
end

