-- ==== Sys2Proof/Machine/Handler.lean ====
section
/-! DEFINITION. The handlers that can be bound to the fault port: the null handler (spec/60_exceptions.md R222), the
copy-on-write handler (44_fork_cow_env.md R193), and an agent outside the machine (60_exceptions.md R221). -/

namespace Sys2Proof.Machine

/-- How a handler's turn ends: with a completion, with a broken precondition of a procedure it called
(60_exceptions.md R215), or not at all. -/
inductive HandlerResult where
  | completes (c : Completion) (p : Pool)
  | aborts (r : AbortReason) (p : Pool)
  | stuck (f : Fault)
  deriving DecidableEq, Repr

/-- What a handler's turn comes to when a procedure it runs ends the process: `alloc()` in it completes the turn with
`terminate(OUT_OF_MEMORY)` (40_frame_pool_env.md R115). -/
def HandlerResult.ofStop (w : Stop) (p : Pool) : HandlerResult :=
  match w with
  | .terminate c => .completes (.terminate c) p
  | .abort r => .aborts r p

/-- The case "Reference count > 1" of `cow_handler`: a fresh frame with the shared frame's bytes, the entry repointed,
made writable and unmarked, the old count one less (R193). The new frame's count is not written (90_conflicts.md C4). -/
def cowCopy (last : Ppn) (ea : Nat) (e : Word) (p : Pool) : HandlerResult :=
  match allocFrame last p with
  | .ok new q =>
    let q := { q with mem := copyFrame q.mem new (getPpn e) }
    let q := { q with mem := memWrite8 q.mem ea (clearDeferred (setWrite (setPpn e new))) }
    .completes .done (setRefcnt q (getPpn e) (refcntOf q (getPpn e) - 1))
  | .stop w q => .ofStop w q
  | .fault f => .stuck f

/-- The address of the faulting entry, `page_table + 8 * index_at(va, 0)` (R193). -/
def cowEntryAddr (r : FaultRequest) : Nat :=
  (r.pageTable + 8 * (indexAt r.virtualAddress .l0).setWidth 64).toNat

/-- `cow_handler(virtual_address, level, page_table)` (R193, D28). -/
def cowHandler (last : Ppn) (r : FaultRequest) (p : Pool) : HandlerResult :=
  match r.level with
  | .l2 => .completes .done p
  | .l1 => .completes .done p
  | .l0 =>
    let ea := cowEntryAddr r
    if populated last ea 8 then
      let e := memRead8 p.mem ea
      if !getValid e then .completes .done p
      else if !inPool last (getPpn e) then .completes .done p
      else
        match refcntOf p (getPpn e) with
        | 0 => .completes .done p
        | 1 =>
          if getDeferred e then
            .completes .done { p with mem := memWrite8 p.mem ea (clearDeferred (setWrite e)) }
          else .completes .done p
        | _ => cowCopy last ea e p
    else .stuck .outsidePool

/-- The actions of an outside handler's turn, in order; a request to the block is never accepted (30_encoding.md R96,
log 13). -/
def agentActions (last : Ppn) : List AgentAction → Pool → PoolResult Unit
  | [], p => .ok () p
  | .env a :: as, p => (envAction last p a).andThen fun _ p => agentActions last as p
  | .request _ :: _, _ => .fault .handlerReentry

/-- An outside handler's turn: its actions, then its completion (30_encoding.md R87). Log 14. -/
def agentHandler (last : Ppn) (t : AgentTurn) (p : Pool) : HandlerResult :=
  match agentActions last t.actions p with
  | .ok _ q =>
    match Completion.ofFrsp t.frsp with
    | some c => .completes c q
    | none => .stuck .illegalCompletion
  | .stop w q => .ofStop w q
  | .fault f => .stuck f

/-- The turn of the bound handler on a fault request (10_state.md R34). The default, null handler completes at once
and changes nothing (60_exceptions.md R222). -/
def handlerTurn (s : State) (r : FaultRequest) : HandlerResult :=
  match s.handler with
  | .null => .completes .done s.pool
  | .cow => cowHandler s.lastPpn r s.pool
  | .agent =>
    match s.agentTurns with
    | [] => .stuck .handlerSilent
    | t :: _ => agentHandler s.lastPpn t s.pool

/-- The outside handler's turns that are left after this one. -/
def turnsAfter (s : State) : List AgentTurn :=
  match s.handler with
  | .null => s.agentTurns
  | .cow => s.agentTurns
  | .agent => s.agentTurns.tail

/-- The walker waits for the handler and goes on with `resume` when it is `done`; `terminate(c)` and an abort in the
handler halt the machine (43_translator.md T5, T6, T8, T9). -/
def awaitHandler (l : Level) (resume : State → State) (s : State) : Except Fault State :=
  match handlerTurn s (faultRequest s l) with
  | .completes .done p => .ok (resume { s with pool := p, agentTurns := turnsAfter s })
  | .completes (.terminate c) p => .ok (raiseTerminate c { s with pool := p, agentTurns := turnsAfter s })
  | .aborts r p => .ok (raiseAbort r { s with pool := p, agentTurns := turnsAfter s })
  | .stuck f => .error f

end Sys2Proof.Machine
end

