-- ==== Sys2Proof/Machine/Access.lean ====
section
/-! DEFINITION. The phase machine of an access, one function per phase and one branch per row of spec/43_translator.md
R153, and the access as the run of its rows to the end (R164, R166). -/

namespace Sys2Proof.Machine

/-- T1, T2: starting an access (R152), in a state that has accepted the request. `WDATA <- B[7:0]` whatever the
operation. -/
def startAccess (op : AccessOp) (va b : Word) (s : State) : State :=
  if s.rootSet then
    { s with
      opc := op
      va := va
      wdata := b.extractLsb' 0 8
      level := .l2
      table := s.root
      faulted := false
      phase := .walk }
  else raiseAbort .rootUnset s

/-- T4c: down to the table the entry names; a new round begins (R155). -/
def descend (l : Level) (s : State) : State :=
  { s with table := getPpn s.entry, level := l, faulted := false, phase := .walk }

/-- T4e: the walk has returned the leaf; the permission round begins (R156, R160). -/
def enterPerm (s : State) : State :=
  { s with faulted := false, phase := .perm }

/-- T7a: permission granted. -/
def enterXfer (s : State) : State :=
  { s with phase := .xfer }

/-- The walker's only write to memory: `MemWrite(pa, 1, WDATA)` (T12, R165). -/
def storeByte (pa : Pa) (s : State) : State :=
  note (.store pa s.wdata) { s with pool := { s.pool with mem := memWrite1 s.pool.mem pa.toNat s.wdata } }

/-- T4a to T4e: what follows the fetch of the entry. -/
def walkDecide (s : State) : State :=
  if isFault s.entry s.level then
    if s.faulted then raiseFatal s.va s.level s.entry s
    else callHandler s.level .hwait s
  else
    match s.level.below with
    | some l => descend l s
    | none =>
      match s.opc with
      | .walk => respond (s.eaddr.setWidth 64) s
      | .read => enterPerm s
      | .write => enterPerm s

/-- T3, T4: one evaluation in the walk. -/
def walkRow (s : State) : State :=
  if inPool s.lastPpn s.table then
    walkDecide (fetchEntry (entryAt s.table (indexAt s.va s.level)) s)
  else raiseAbort .frameRange s

/-- T7a to T7c: one permission check. -/
def permRow (s : State) : Except Fault State :=
  match need s.entry s.opc with
  | none => .error .noRow
  | some true => .ok (enterXfer s)
  | some false =>
    if s.faulted then .ok (raiseFatal s.va .l0 s.entry s)
    else .ok (callHandler .l0 .pwait s)

/-- T10 to T12: the byte is moved. -/
def xferRow (s : State) : Except Fault State :=
  if inPool s.lastPpn (getPpn s.entry) then
    let pa := dataAddr (getPpn s.entry) s.va
    match s.opc with
    | .walk => .error .noRow
    | .read => .ok (respond ((memRead1 s.pool.mem pa.toNat).setWidth 64) (note (.load pa) s))
    | .write => .ok (respond 0 (storeByte pa s))
  else .ok (raiseAbort .frameRange s)

/-- T8, T9: waiting in the permission round; the re-fetch is at `EADDR`, which every run keeps populated. -/
def pwaitRow (s : State) : Except Fault State :=
  if populated s.lastPpn s.eaddr.toNat 8 then awaitHandler .l0 resumePerm s else .error .outsidePool

/-- One row of R153: the next step of the walker, or why it takes none. In `IDLE` there is nothing to do without a
request. -/
def phaseStep (s : State) : Except Fault State :=
  match s.phase with
  | .idle => .ok s
  | .walk => .ok (walkRow s)
  | .hwait => awaitHandler s.level resumeWalk s
  | .perm => permRow s
  | .pwait => pwaitRow s
  | .xfer => xferRow s
  | .halt => .error .halted

/-- At most `n` rows, one after another, until the access has answered or halted, or the handler does not complete
(then the walker keeps waiting, and the state shows it). -/
def runRows : Nat → State → State
  | 0, s => s
  | n + 1, s =>
    match s.phase with
    | .idle => s
    | .halt => s
    | _ =>
      match phaseStep s with
      | .ok s' => runRows n s'
      | .error _ => s

/-- More rows than any access takes: at most 6 evaluations in the walk, 3 waits, 2 permission checks, 1 wait, 1
transfer (R164). -/
def accessRows : Nat := 16

/-- A whole access, from the accepted request to its end (R153, R166). Log 3. -/
def runAccess (op : AccessOp) (va b : Word) (s : State) : State :=
  runRows accessRows (startAccess op va b s)

end Sys2Proof.Machine
end

