-- ==== Sys2Proof/Machine/Translator.lean ====
section
/-! DEFINITION. The 5 translator operations (spec/43_translator.md R157 to R159, R162, R163). -/

namespace Sys2Proof.Machine

/-- `MMU.WALK` (R157): answers the physical address of the leaf entry. -/
def execMmuWalk (vaddr b : Word) (s : State) : Host.Outcome State Fault Refusal :=
  accepting (runAccess .walk vaddr b) s

/-- `MMU.READ` (R158): answers the byte at the translated address. -/
def execMmuRead (vaddr b : Word) (s : State) : Host.Outcome State Fault Refusal :=
  accepting (runAccess .read vaddr b) s

/-- `MMU.WRITE` (R159): stores `value[7:0]` at the translated address. -/
def execMmuWrite (vaddr value : Word) (s : State) : Host.Outcome State Fault Refusal :=
  accepting (runAccess .write vaddr value) s

/-- The effect of `MMU.SETROOT` on a checked frame (R162). -/
def setRoot (f : Ppn) (s : State) : State :=
  respond 0 { s with root := f, rootSet := true }

/-- `MMU.SETROOT` (R162). -/
def execMmuSetroot (frame : Word) (s : State) : Host.Outcome State Fault Refusal :=
  accepting (withOperand (frameOperand s.lastPpn frame) setRoot) s

/-- The effect of `MMU.GETROOT`: the root's frame, or `Abort(ROOT_UNSET)` (R163). -/
def getRoot (s : State) : State :=
  if s.rootSet then respond (frameWord s.root) s else raiseAbort .rootUnset s

/-- `MMU.GETROOT` (R163). -/
def execMmuGetroot (s : State) : Host.Outcome State Fault Refusal :=
  accepting getRoot s

end Sys2Proof.Machine
end

