-- ==== Sys2Proof/Machine/Dispatch.lean ====
section
/-! DEFINITION. One arm per operation of spec/opcode_table.json. -/

namespace Sys2Proof.Machine

def exec (i : Instr) (s : State) : Host.Outcome State Fault Refusal :=
  match i with
  | .pteVget entry => Sys2Proof.Machine.execPteVget entry s
  | .pteVset entry => Sys2Proof.Machine.execPteVset entry s
  | .pteVclr entry => Sys2Proof.Machine.execPteVclr entry s
  | .pteRget entry => Sys2Proof.Machine.execPteRget entry s
  | .pteRset entry => Sys2Proof.Machine.execPteRset entry s
  | .pteRclr entry => Sys2Proof.Machine.execPteRclr entry s
  | .pteWget entry => Sys2Proof.Machine.execPteWget entry s
  | .pteWset entry => Sys2Proof.Machine.execPteWset entry s
  | .pteWclr entry => Sys2Proof.Machine.execPteWclr entry s
  | .pteDget entry => Sys2Proof.Machine.execPteDget entry s
  | .pteDset entry => Sys2Proof.Machine.execPteDset entry s
  | .pteDclr entry => Sys2Proof.Machine.execPteDclr entry s
  | .ptePpnget entry => Sys2Proof.Machine.execPtePpnget entry s
  | .ptePpnset entry ppn => Sys2Proof.Machine.execPtePpnset entry ppn s
  | .navIndex vaddr level => Sys2Proof.Machine.execNavIndex vaddr level s
  | .navEntryat table index => Sys2Proof.Machine.execNavEntryat table index s
  | .navF2p frame => Sys2Proof.Machine.execNavF2p frame s
  | .navP2f ppn => Sys2Proof.Machine.execNavP2f ppn s
  | .mmuWalk vaddr b => Sys2Proof.Machine.execMmuWalk vaddr b s
  | .mmuRead vaddr b => Sys2Proof.Machine.execMmuRead vaddr b s
  | .mmuWrite vaddr value => Sys2Proof.Machine.execMmuWrite vaddr value s
  | .mmuSetroot frame => Sys2Proof.Machine.execMmuSetroot frame s
  | .mmuGetroot => Sys2Proof.Machine.execMmuGetroot s

end Sys2Proof.Machine
end

