-- ==== Sys2Proof/Machine/Fetch.lean ====
section
/-! DEFINITION. Whose turn it is and what the machine then does: the host's next action between operations (spec/
70_reset_and_hazards.md R244, R247), a row of the access in progress (43_translator.md R153), or reset (R240). -/

namespace Sys2Proof.Machine

/-- The block takes a request from the command port: it decodes it and runs it, or aborts with `ILLEGAL_OP` on a
reserved number (30_encoding.md R84, R89). -/
def runRequest (r : Req) (s : State) : Host.Outcome State Fault Refusal :=
  match decode r with
  | .ok i => exec i s
  | .error _ => accepting (raiseAbort .illegalOp) s

/-- The outside handler's turns after a reset: a reset in `HWAIT` or `PWAIT` ends the handler call in progress with the
operation (R240), so that call's turn is used up, and the next call has the turn after it; the spec does not say what
becomes of such a call (DESIGN CHOICE). Log 21. -/
def turnsAfterReset (s : State) : List AgentTurn :=
  match s.phase with
  | .hwait => turnsAfter s
  | .pwait => turnsAfter s
  | .idle => s.agentTurns
  | .walk => s.agentTurns
  | .perm => s.agentTurns
  | .xfer => s.agentTurns
  | .halt => s.agentTurns

/-- Reset: every element at its reset value, whatever the phase; the parameters are those of the machine, and what the
outside has still to do stands, but for the turn of a handler call that the reset cuts off (R240). Log 21. -/
def resetMachine (s : State) : State :=
  { State.reset with
    lastPpn := s.lastPpn
    handler := s.handler
    agentTurns := turnsAfterReset s
    hostQueue := s.hostQueue }

/-- One action of the host, in a state in which its turn has come and from whose queue it is taken. -/
def hostMove (a : HostAction) (s : State) : Host.Outcome State Fault Refusal :=
  match a with
  | .request r => runRequest r s
  | .env e => hostProcedure (envAction s.lastPpn s.pool e) id s
  | .forkCopy => hostProcedure (forkCopy s.lastPpn s.rootSet s.root s.pool) (fun f => some (frameWord f).toNat) s
  | .forkCopyOnWrite =>
    hostProcedure (forkCopyOnWrite s.lastPpn s.rootSet s.root s.pool) (fun f => some (frameWord f).toNat) s
  | .terminate c => hostProcedure (endProcess c s.pool) (fun _ => none) s
  | .reset => .next (resetMachine s)

/-- The machine without a reset: in `IDLE` the host acts, or nothing happens; in `HALT` nothing can; otherwise the
walker, with its handler, takes one row. Log 7, 12. -/
def walkerOrHost (s : State) : Host.Outcome State Fault Refusal :=
  match s.phase with
  | .idle =>
    match s.hostQueue with
    | [] => .next s
    | a :: rest => hostMove a { s with hostQueue := rest }
  | .halt => .fault .halted
  | _ =>
    match phaseStep s with
    | .ok t => .next t
    | .error f => .fault f

/-- The machine's turn: a reset that is the host's next action is taken in any phase (R240). -/
def machineTurn (s : State) : Host.Outcome State Fault Refusal :=
  match s.hostQueue with
  | .reset :: rest => .next (resetMachine { s with hostQueue := rest })
  | _ => walkerOrHost s

/-- The request word of a table word (spec/opcode_table.json): `nbits` bits of it, zeros above. -/
def tableReq (nbits w : Nat) : Req := BitVec.ofNat 136 (w % 2 ^ nbits)

/-- The state with a request as the host's next action and the block ready for it. Log 23. -/
def placeRequest (s : State) (r : Req) : State :=
  { s with phase := .idle, hostQueue := .request r :: s.hostQueue }

end Sys2Proof.Machine
end

