-- ==== Sys2Proof/Machine/Step.lean ====
section
/-! DEFINITION. One step of the machine, and where a program's next request is placed. -/

namespace Sys2Proof.Machine

/-- One step: Machine/Fetch.lean says whose turn it is. -/
def step (s : State) : Host.Outcome State Fault Refusal :=
  machineTurn s

/-- `s` with the request `w` of `nbits` bits where the next step takes it: at the head of the host's queue, the block
ready. The block fetches no program (10_state.md R22): this stands for the host issuing a request. Log 7, 23. -/
def State.withFetchWord (s : State) (nbits w : Nat) : State :=
  placeRequest s (tableReq nbits w)

end Sys2Proof.Machine
end

