-- ==== Sys2Proof/Machine/Pseudo.lean ====
section
/-! DEFINITION. The pseudo-operations of spec/30_encoding.md R92 as the functions their expansions compute; each step
of an expansion is an operation of its own on the command port. -/

namespace Sys2Proof.Machine

/-- The record {ppn, valid, read, write, deferred_write} of `PTE.ENC` and `PTE.DEC` (R92). -/
structure PteRecord where
  ppn      : Ppn
  valid    : Bool
  read     : Bool
  write    : Bool
  deferred : Bool
  deriving DecidableEq, Repr

/-- `PTE.ENC`: `PTE.PPNSET 0, ppn`, then one set operation for each flag that is 1. -/
def pteEnc (r : PteRecord) : Word :=
  let e := setPpn 0 r.ppn
  let e := if r.valid then setValid e else e
  let e := if r.read then setRead e else e
  let e := if r.write then setWrite e else e
  if r.deferred then setDeferred e else e

/-- `PTE.DEC`: the five get operations. -/
def pteDec (e : Word) : PteRecord where
  ppn      := getPpn e
  valid    := getValid e
  read     := getRead e
  write    := getWrite e
  deferred := getDeferred e

/-- `NAV.ENTRY table, vaddr, level`: `NAV.INDEX`, then `NAV.ENTRYAT` (42_navigator.md R144); `BAD_LEVEL` comes first. -/
def navEntry (last : Ppn) (table vaddr level : Word) : Except AbortReason Word :=
  match levelOperand level with
  | .error r => .error r
  | .ok l =>
    match frameOperand last table with
    | .error r => .error r
    | .ok f => .ok ((entryAt f (indexAt vaddr l)).setWidth 64)

end Sys2Proof.Machine
end

