-- ==== Sys2Proof/Machine/Sequential.lean ====
section
/-! DEFINITION. The access a second time, as the sequential pseudocode of spec/43_translator.md R166. The machine runs
the phase machine of Machine/Access.lean; this form is for a claim that the two agree. -/

namespace Sys2Proof.Machine

/-- What an access changes outside the walker's own registers: the pool, the outside handler's turns, the record. -/
structure Scene where
  pool   : Pool
  turns  : List AgentTurn
  events : List Event
  deriving DecidableEq, Repr

/-- How an access ends before it would go on: an answer, one of the terminal conditions, or a handler call that does
not end. -/
inductive Ending where
  | answers (r : Word)
  | fatal (l : Level) (e : Word)
  | aborts (r : AbortReason)
  | terminates (c : TermCause)
  | hangs (f : Fault)
  deriving DecidableEq, Repr

/-- A piece of the pseudocode goes on with a value or ends the access. -/
inductive SeqResult (α : Type) where
  | goes (v : α) (c : Scene)
  | ends (x : Ending) (c : Scene)
  deriving DecidableEq, Repr

/-- One piece after another. -/
def SeqResult.andThen {α β : Type} (r : SeqResult α) (k : α → Scene → SeqResult β) : SeqResult β :=
  match r with
  | .goes v c => k v c
  | .ends x c => .ends x c

/-- `e <- MemRead(eaddr, 8)`. -/
def seqFetch (a : Pa) (c : Scene) : SeqResult Word :=
  .goes (memRead8 c.pool.mem a.toNat) { c with events := c.events ++ [.fetch a] }

/-- `H(va, level, frame)`: the handler bound in `s` runs on the scene as it stands. -/
def seqCall (s : State) (va : Word) (l : Level) (table : Ppn) (c : Scene) : SeqResult Unit :=
  let r : FaultRequest := { virtualAddress := va, level := l, pageTable := frameWord table }
  let s := { s with pool := c.pool, agentTurns := c.turns }
  let c := { c with events := c.events ++ [.call r] }
  match handlerTurn s r with
  | .completes .done p => .goes () { c with pool := p, turns := turnsAfter s }
  | .completes (.terminate w) p => .ends (.terminates w) { c with pool := p, turns := turnsAfter s }
  | .aborts w p => .ends (.aborts w) { c with pool := p, turns := turnsAfter s }
  | .stuck f => .ends (.hangs f) c

/-- One turn of the loop of `walk`: the entry of `va` at level `l` in `table`, after at most one handler call. -/
def seqRound (s : State) (va : Word) (l : Level) (table : Ppn) (c : Scene) : SeqResult Word :=
  if inPool s.lastPpn table then
    (seqFetch (entryAt table (indexAt va l)) c).andThen fun e c =>
      if isFault e l then
        (seqCall s va l table c).andThen fun _ c =>
          (seqFetch (entryAt table (indexAt va l)) c).andThen fun e c =>
            if isFault e l then .ends (.fatal l e) c else .goes e c
      else .goes e c
  else .ends (.aborts .frameRange) c

/-- `walk(va)`: the leaf table, whose entry for `va` is the leaf, and the leaf entry. -/
def seqWalk (s : State) (va : Word) (c : Scene) : SeqResult (Ppn × Word) :=
  if s.rootSet then
    (seqRound s va .l2 s.root c).andThen fun e c =>
      (seqRound s va .l1 (getPpn e) c).andThen fun e c =>
        let leafTable := getPpn e
        (seqRound s va .l0 leafTable c).andThen fun e c => .goes (leafTable, e) c
  else .ends (.aborts .rootUnset) c

/-- The permission check of `access`: `bit` is the needed bit. -/
def seqPermit (s : State) (bit : Word → Bool) (va : Word) (leafTable : Ppn) (e : Word) (c : Scene) : SeqResult Word :=
  if bit e then .goes e c
  else
    (seqCall s va .l0 leafTable c).andThen fun _ c =>
      (seqFetch (entryAt leafTable (indexAt va .l0)) c).andThen fun e c =>
        if bit e then .goes e c else .ends (.fatal .l0 e) c

/-- `access(va, READ)`. -/
def seqRead (s : State) (va : Word) (c : Scene) : SeqResult Word :=
  (seqWalk s va c).andThen fun w c =>
    (seqPermit s getRead va w.1 w.2 c).andThen fun e c =>
      if inPool s.lastPpn (getPpn e) then
        let pa := dataAddr (getPpn e) va
        .goes ((memRead1 c.pool.mem pa.toNat).setWidth 64) { c with events := c.events ++ [.load pa] }
      else .ends (.aborts .frameRange) c

/-- `access(va, WRITE, value)`. -/
def seqWrite (s : State) (va : Word) (value : Byte) (c : Scene) : SeqResult Word :=
  (seqWalk s va c).andThen fun w c =>
    (seqPermit s getWrite va w.1 w.2 c).andThen fun e c =>
      if inPool s.lastPpn (getPpn e) then
        let pa := dataAddr (getPpn e) va
        .goes 0
          { c with
            pool := { c.pool with mem := memWrite1 c.pool.mem pa.toNat value }
            events := c.events ++ [.store pa value] }
      else .ends (.aborts .frameRange) c

/-- A whole access (R166): `MMU.WALK` answers the leaf entry's address (R157). -/
def seqAccess (s : State) (op : AccessOp) (va b : Word) (c : Scene) : Ending × Scene :=
  let r : SeqResult Word :=
    match op with
    | .walk => (seqWalk s va c).andThen fun w c => .goes ((entryAt w.1 (indexAt va .l0)).setWidth 64) c
    | .read => seqRead s va c
    | .write => seqWrite s va (b.extractLsb' 0 8) c
  match r with
  | .goes v c => (.answers v, c)
  | .ends x c => (x, c)

/-- The scene an access begins in, the record empty. -/
def State.scene (s : State) : Scene where
  pool   := s.pool
  turns  := s.agentTurns
  events := []

/-- What the state shows of an ending (60_exceptions.md R228). -/
def State.Shows (t : State) (va : Word) : Ending → Prop
  | .answers r => t.phase = .idle ∧ t.rsp = some r
  | .fatal l e =>
    t.phase = .halt ∧ t.rsp = none ∧ t.fatal = true ∧ t.cause = .badAddress ∧ t.diagValid = true ∧ t.diagVa = va
      ∧ t.diagLevel = l ∧ t.diagPpn = getPpn e ∧ t.diagFlags = diagFlagsOf e
  | .aborts r => t.phase = .halt ∧ t.rsp = none ∧ t.fatal = true ∧ t.cause = .abort ∧ t.abortReason = r
  | .terminates c => t.phase = .halt ∧ t.rsp = none ∧ t.fatal = true ∧ t.cause = c.cause
  | .hangs f => (t.phase = .hwait ∨ t.phase = .pwait) ∧ t.rsp = none ∧ phaseStep t = .error f

end Sys2Proof.Machine
end

