-- ==== Sys2Proof/Safety.lean ====
section
/-! DEFINITION. What the claims are stated in: the invariant of the machine, the end of a run, the path of a
translation, and the counts of an access (spec/70_reset_and_hazards.md R247, 43_translator.md R164, R172). -/

namespace Sys2Proof.Machine

/-- The shared pool is in canonical form and lies inside the populated frames (10_state.md R30, R33). -/
structure Pool.Ok (last : Ppn) (p : Pool) : Prop where
  memWf        : Memory.wf p.mem
  memInside    : Memory.inside last p.mem
  allocSorted  : p.allocSet.Pairwise (· < ·)
  allocInside  : ∀ f ∈ p.allocSet, f < maxPages last
  refcntWf     : SparseWf (0 : Nat) p.refcnt
  refcntInside : ∀ c ∈ p.refcnt, c.1 < maxPages last

/-- The invariant every step keeps. -/
structure State.Inv (s : State) : Prop where
  /-- The pool is well formed. -/
  poolOk      : Pool.Ok s.lastPpn s.pool
  /-- "`FATAL` = 1 exactly when `PHASE` = `HALT`" (10_state.md R27). -/
  fatalHalt   : s.fatal = true ↔ s.phase = .halt
  /-- A condition is recorded exactly when the machine has halted (60_exceptions.md R228). -/
  causeFatal  : s.cause ≠ .none ↔ s.fatal = true
  /-- A reason is recorded exactly with the condition `ABORT` (60_exceptions.md R215). -/
  reasonAbort : s.abortReason ≠ .none ↔ s.cause = .abort
  /-- The diagnostic is written by the fatal fault alone (10_state.md R28). -/
  diagFatal   : s.diagValid = true → s.cause = .badAddress
  /-- The active root is a frame of the pool (10_state.md R23). -/
  rootInside  : s.rootSet = true → inPool s.lastPpn s.root = true
  /-- A walk has no permission round and no transfer (43_translator.md R153). -/
  walkRounds  : s.opc = .walk → s.phase ≠ .perm ∧ s.phase ≠ .pwait ∧ s.phase ≠ .xfer
  /-- A round that waits for the handler or has passed the walk evaluates a table of the pool (43_translator.md T3). -/
  tableInside : s.phase = .hwait ∨ s.phase = .perm ∨ s.phase = .pwait ∨ s.phase = .xfer →
    inPool s.lastPpn s.table = true
  /-- After the walk the level is 0 and `EADDR` is the leaf entry's address (43_translator.md R153). -/
  leafRound   : s.phase = .perm ∨ s.phase = .pwait ∨ s.phase = .xfer →
    s.level = .l0 ∧ s.eaddr = entryAt s.table (indexAt s.va .l0)
  /-- While the handler runs the round has faulted (10_state.md R26). -/
  waitFaulted : s.phase = .hwait ∨ s.phase = .pwait → s.faulted = true
  /-- While an operation is in progress nothing has been answered (30_encoding.md R85). -/
  busySilent  : s.phase ≠ .idle → s.phase ≠ .halt → s.rsp = none

/-- The allocator's invariant `LIVE` = |`ALLOC`| (40_frame_pool_env.md R114), on a canonical allocation set. -/
def Pool.Counted (p : Pool) : Prop := p.live = p.allocSet.length

/-- The end of a run: no action of the host left, `PHASE` = `IDLE`, `FATAL` = 0 (70_reset_and_hazards.md R247). -/
def State.Finished (s : State) : Prop :=
  s.hostQueue = [] ∧ s.phase = .idle ∧ s.fatal = false

/-- The entry for `va` at level `l` in the table in frame `t` (42_navigator.md R144). -/
def pteAt (m : Memory) (t : Ppn) (va : Word) (l : Level) : Word :=
  memRead8 m (entryAt t (indexAt va l)).toNat

/-- The level-2 entry on the path of `va`. -/
def entry2 (s : State) (va : Word) : Word := pteAt s.pool.mem s.root va .l2

/-- The level-1 entry on the path of `va`. -/
def entry1 (s : State) (va : Word) : Word := pteAt s.pool.mem (getPpn (entry2 s va)) va .l1

/-- The leaf entry on the path of `va`. -/
def entry0 (s : State) (va : Word) : Word := pteAt s.pool.mem (getPpn (entry1 s va)) va .l0

/-- The address of the leaf entry on the path of `va`. -/
def leafAddr (s : State) (va : Word) : Pa := entryAt (getPpn (entry1 s va)) (indexAt va .l0)

/-- An interior entry that routes: `V` = 1, `R` = `W` = 0 (30_encoding.md R83). -/
def isPointer (e : Word) : Bool := getValid e && !getRead e && !getWrite e

/-- A complete leaf: `V` = 1 and `R` or `W` (30_encoding.md R83). -/
def isLeaf (e : Word) : Bool := getValid e && (getRead e || getWrite e)

/-- The path of `va` leads from the active root to a complete leaf through frames of the pool (43_translator.md R172). -/
structure Mapped (s : State) (va : Word) : Prop where
  rootSet    : s.rootSet = true
  rootInside : inPool s.lastPpn s.root = true
  pointer2   : isPointer (entry2 s va) = true
  inside1    : inPool s.lastPpn (getPpn (entry2 s va)) = true
  pointer1   : isPointer (entry1 s va) = true
  inside0    : inPool s.lastPpn (getPpn (entry1 s va)) = true
  leaf       : isLeaf (entry0 s va) = true

/-- The physical address `va` translates to (43_translator.md R161). -/
def translate (s : State) (va : Word) : Pa := dataAddr (getPpn (entry0 s va)) va

/-- The four flags of an entry (30_encoding.md R81). -/
inductive PteFlag where
  | valid
  | read
  | write
  | deferred
  deriving DecidableEq, Repr

/-- The flag's get function. -/
def PteFlag.get : PteFlag → Word → Bool
  | .valid => getValid
  | .read => getRead
  | .write => getWrite
  | .deferred => getDeferred

/-- The flag's set function. -/
def PteFlag.set : PteFlag → Word → Word
  | .valid => setValid
  | .read => setRead
  | .write => setWrite
  | .deferred => setDeferred

/-- The flag's clear function. -/
def PteFlag.clear : PteFlag → Word → Word
  | .valid => clearValid
  | .read => clearRead
  | .write => clearWrite
  | .deferred => clearDeferred

/-- Every byte of every frame that is not allocated is 0 (40_frame_pool_env.md R114). -/
def Pool.FreeZero (p : Pool) : Prop :=
  ∀ a : Nat, a / Config.pageSize ∉ p.allocSet → memRead1 p.mem a = 0

/-- The number of PTE fetches in a record (43_translator.md R164). -/
def fetches (es : List Event) : Nat :=
  es.countP fun e => match e with
    | .fetch _ => true
    | .load _ => false
    | .store _ _ => false
    | .call _ => false

/-- The number of handler calls in a record. -/
def calls (es : List Event) : Nat :=
  es.countP fun e => match e with
    | .fetch _ => false
    | .load _ => false
    | .store _ _ => false
    | .call _ => true

/-- The number of data accesses in a record. -/
def dataAccesses (es : List Event) : Nat :=
  es.countP fun e => match e with
    | .fetch _ => false
    | .load _ => true
    | .store _ _ => true
    | .call _ => false

end Sys2Proof.Machine
end

