-- ==== Sys2Proof/Certificates/Slice0/Obligations.lean ====
section
/-! DEFINITION. The statements about the machine, from the numbered rules of spec/. -/

open Sys2Proof Sys2Proof.Machine

/-- The get operations (41_pte_codec.md R120, R123, R126, R129): `respond(zext_64(A[bit]))`, no state read or written.
-/
def Obligations.PteGetAnswersTheFlagBit : Prop :=
  ∀ (e b : Word) (s : State), s.phase = .idle →
    decode (Req.pack 0x00 e b) = .ok (.pteVget e)
    ∧ exec (.pteVget e) s = .next { s with rsp := some ((e.extractLsb' 0 1).setWidth 64), events := [] }
    ∧ decode (Req.pack 0x04 e b) = .ok (.pteRget e)
    ∧ exec (.pteRget e) s = .next { s with rsp := some ((e.extractLsb' 1 1).setWidth 64), events := [] }
    ∧ decode (Req.pack 0x08 e b) = .ok (.pteWget e)
    ∧ exec (.pteWget e) s = .next { s with rsp := some ((e.extractLsb' 2 1).setWidth 64), events := [] }
    ∧ decode (Req.pack 0x0C e b) = .ok (.pteDget e)
    ∧ exec (.pteDget e) s = .next { s with rsp := some ((e.extractLsb' 8 1).setWidth 64), events := [] }

/-- The set operations (41_pte_codec.md R121, R124, R127, R130). -/
def Obligations.PteSetSetsTheFlagBit : Prop :=
  ∀ (e b : Word) (s : State), s.phase = .idle →
    decode (Req.pack 0x01 e b) = .ok (.pteVset e)
    ∧ exec (.pteVset e) s = .next { s with rsp := some (e ||| 0x0000000000000001), events := [] }
    ∧ decode (Req.pack 0x05 e b) = .ok (.pteRset e)
    ∧ exec (.pteRset e) s = .next { s with rsp := some (e ||| 0x0000000000000002), events := [] }
    ∧ decode (Req.pack 0x09 e b) = .ok (.pteWset e)
    ∧ exec (.pteWset e) s = .next { s with rsp := some (e ||| 0x0000000000000004), events := [] }
    ∧ decode (Req.pack 0x0D e b) = .ok (.pteDset e)
    ∧ exec (.pteDset e) s = .next { s with rsp := some (e ||| 0x0000000000000100), events := [] }

/-- The clear operations (41_pte_codec.md R122, R125, R128, R131). -/
def Obligations.PteClearClearsTheFlagBit : Prop :=
  ∀ (e b : Word) (s : State), s.phase = .idle →
    decode (Req.pack 0x02 e b) = .ok (.pteVclr e)
    ∧ exec (.pteVclr e) s = .next { s with rsp := some (e &&& 0xFFFFFFFFFFFFFFFE), events := [] }
    ∧ decode (Req.pack 0x06 e b) = .ok (.pteRclr e)
    ∧ exec (.pteRclr e) s = .next { s with rsp := some (e &&& 0xFFFFFFFFFFFFFFFD), events := [] }
    ∧ decode (Req.pack 0x0A e b) = .ok (.pteWclr e)
    ∧ exec (.pteWclr e) s = .next { s with rsp := some (e &&& 0xFFFFFFFFFFFFFFFB), events := [] }
    ∧ decode (Req.pack 0x0E e b) = .ok (.pteDclr e)
    ∧ exec (.pteDclr e) s = .next { s with rsp := some (e &&& 0xFFFFFFFFFFFFFEFF), events := [] }

/-- `PTE.PPNGET` (41_pte_codec.md R132). -/
def Obligations.PtePpngetAnswersTheFrameNumber : Prop :=
  ∀ (e b : Word) (s : State), s.phase = .idle →
    decode (Req.pack 0x10 e b) = .ok (.ptePpnget e)
    ∧ exec (.ptePpnget e) s = .next { s with rsp := some (e >>> 20), events := [] }

/-- `PTE.PPNSET` (41_pte_codec.md R133). -/
def Obligations.PtePpnsetReplacesTheFieldOrAborts : Prop :=
  ∀ (e b : Word) (s : State), s.phase = .idle →
    decode (Req.pack 0x11 e b) = .ok (.ptePpnset e b)
    ∧ (b.toNat < 2 ^ 44 →
      exec (.ptePpnset e b) s =
        .next { s with rsp := some ((e &&& 0x00000000000FFFFF) ||| (b <<< 20)), events := [] })
    ∧ (2 ^ 44 ≤ b.toNat →
      exec (.ptePpnset e b) s =
        .next { s with rsp := none, events := [], cause := .abort, abortReason := .ppnRange, fatal := true, phase := .halt })

/-- Flag independence (41_pte_codec.md R135). -/
def Obligations.FlagsAreIndependent : Prop :=
  (∀ (x : PteFlag) (e : Word),
    x.get (x.set e) = true ∧ x.get (x.clear e) = false
    ∧ getPpn (x.set e) = getPpn e ∧ getPpn (x.clear e) = getPpn e
    ∧ (∀ y : PteFlag, y ≠ x → y.get (x.set e) = y.get e ∧ y.get (x.clear e) = y.get e)
    ∧ (∀ i : Nat, (3 ≤ i ∧ i ≤ 7) ∨ (9 ≤ i ∧ i ≤ 19) →
      (x.set e).getLsbD i = e.getLsbD i ∧ (x.clear e).getLsbD i = e.getLsbD i))
  ∧ (∀ (y : PteFlag) (e : Word) (p : Ppn), y.get (setPpn e p) = y.get e)

/-- The PPN round trip (41_pte_codec.md R136). -/
def Obligations.PpnRoundTrips : Prop :=
  (∀ (e b : Word), b.toNat < 2 ^ 44 →
    ∃ p : Ppn, ppnOperand b = .ok p ∧ (getPpn (setPpn e p)).setWidth 64 = b)
  ∧ (∀ b : Word, 2 ^ 44 ≤ b.toNat → ppnOperand b = .error .ppnRange)
  ∧ (∀ e : Word, setPpn e (getPpn e) = e)

/-- The pseudo-operations `PTE.ENC` and `PTE.DEC` (30_encoding.md R92). -/
def Obligations.RecordEncodingRoundTrips : Prop :=
  (∀ r : PteRecord,
    pteEnc r = (r.ppn.setWidth 64 <<< 20) ||| ((BitVec.ofBool r.deferred).setWidth 64 <<< 8)
      ||| ((BitVec.ofBool r.write).setWidth 64 <<< 2) ||| ((BitVec.ofBool r.read).setWidth 64 <<< 1)
      ||| (BitVec.ofBool r.valid).setWidth 64
    ∧ pteDec (pteEnc r) = r)
  ∧ (∀ e : Word, pteEnc (pteDec e) = e &&& 0xFFFFFFFFFFF00107)

/-- `NAV.INDEX` (42_navigator.md R140). -/
def Obligations.NavIndexAnswersTheSlice : Prop :=
  ∀ (va l : Word) (s : State), s.phase = .idle →
    decode (Req.pack 0x20 va l) = .ok (.navIndex va l)
    ∧ (l.toNat ≤ 2 →
      exec (.navIndex va l) s =
        .next { s with rsp := some ((va >>> (9 * l.toNat + 12)) &&& 0x1FF), events := [] })
    ∧ (2 < l.toNat →
      exec (.navIndex va l) s =
        .next { s with rsp := none, events := [], cause := .abort, abortReason := .badLevel, fatal := true, phase := .halt })

/-- `NAV.ENTRYAT` (42_navigator.md R141). -/
def Obligations.NavEntryatLocatesTheEntry : Prop :=
  ∀ (a b : Word) (s : State), s.phase = .idle →
    decode (Req.pack 0x21 a b) = .ok (.navEntryat a b)
    ∧ (a.extractLsb' 0 12 ≠ 0 →
      exec (.navEntryat a b) s =
        .next { s with rsp := none, events := [], cause := .abort, abortReason := .misalignedFrame, fatal := true, phase := .halt })
    ∧ (a.extractLsb' 0 12 = 0 → maxPages s.lastPpn ≤ (a >>> 12).toNat →
      exec (.navEntryat a b) s =
        .next { s with rsp := none, events := [], cause := .abort, abortReason := .frameRange, fatal := true, phase := .halt })
    ∧ (a.extractLsb' 0 12 = 0 → (a >>> 12).toNat < maxPages s.lastPpn → 511 < b.toNat →
      exec (.navEntryat a b) s =
        .next { s with rsp := none, events := [], cause := .abort, abortReason := .badIndex, fatal := true, phase := .halt })
    ∧ (a.extractLsb' 0 12 = 0 → (a >>> 12).toNat < maxPages s.lastPpn → b.toNat ≤ 511 →
      exec (.navEntryat a b) s = .next { s with rsp := some (a + 8 * b), events := [] })

/-- `NAV.F2P` (42_navigator.md R142). -/
def Obligations.NavF2pAnswersTheFrameNumber : Prop :=
  ∀ (a b : Word) (s : State), s.phase = .idle →
    decode (Req.pack 0x22 a b) = .ok (.navF2p a)
    ∧ (a.extractLsb' 0 12 ≠ 0 →
      exec (.navF2p a) s =
        .next { s with rsp := none, events := [], cause := .abort, abortReason := .misalignedFrame, fatal := true, phase := .halt })
    ∧ (a.extractLsb' 0 12 = 0 → maxPages s.lastPpn ≤ (a >>> 12).toNat →
      exec (.navF2p a) s =
        .next { s with rsp := none, events := [], cause := .abort, abortReason := .frameRange, fatal := true, phase := .halt })
    ∧ (a.extractLsb' 0 12 = 0 → (a >>> 12).toNat < maxPages s.lastPpn →
      exec (.navF2p a) s = .next { s with rsp := some (a >>> 12), events := [] })

/-- `NAV.P2F` (42_navigator.md R143); that the walker makes the same check is in `PhaseMachineWalkRows` and
`PhaseMachineTransferRows`. -/
def Obligations.NavP2fAnswersTheFrame : Prop :=
  ∀ (a b : Word) (s : State), s.phase = .idle →
    decode (Req.pack 0x23 a b) = .ok (.navP2f a)
    ∧ (maxPages s.lastPpn ≤ a.toNat →
      exec (.navP2f a) s =
        .next { s with rsp := none, events := [], cause := .abort, abortReason := .frameRange, fatal := true, phase := .halt })
    ∧ (a.toNat < maxPages s.lastPpn →
      exec (.navP2f a) s = .next { s with rsp := some (a <<< 12), events := [] })

/-- The pseudo-operation `NAV.ENTRY` (42_navigator.md R144). -/
def Obligations.NavEntryIsIndexThenEntryat : Prop :=
  ∀ (table va l : Word) (s : State), s.phase = .idle →
    match navEntry s.lastPpn table va l with
    | .ok pa => ∃ i : Word,
        exec (.navIndex va l) s = .next { s with rsp := some i, events := [] }
        ∧ exec (.navEntryat table i) s = .next { s with rsp := some pa, events := [] }
    | .error r =>
        (r = .badLevel ∧ exec (.navIndex va l) s = .next
          { s with rsp := none, events := [], cause := .abort, abortReason := r, fatal := true, phase := .halt })
        ∨ ∃ i : Word, exec (.navIndex va l) s = .next { s with rsp := some i, events := [] }
          ∧ exec (.navEntryat table i) s = .next
            { s with rsp := none, events := [], cause := .abort, abortReason := r, fatal := true, phase := .halt }

/-- The address-split law (42_navigator.md R145). -/
def Obligations.AddressSplitReconstructs : Prop :=
  ∀ va : Word,
    ((indexAt va .l2).setWidth 64 <<< 30) ||| ((indexAt va .l1).setWidth 64 <<< 21)
      ||| ((indexAt va .l0).setWidth 64 <<< 12) ||| (va &&& 0xFFF) = va &&& 0x0000007FFFFFFFFF

/-- The fault predicate (43_translator.md R151). -/
def Obligations.FaultPredicateByLevel : Prop :=
  ∀ (e : Word) (l : Level),
    isFault e l = true ↔
      (e.getLsbD 0 = false
        ∨ (0 < l.num ∧ (e.getLsbD 1 = true ∨ e.getLsbD 2 = true))
        ∨ (l.num = 0 ∧ e.getLsbD 1 = false ∧ e.getLsbD 2 = false))

/-- `MMU.SETROOT` (43_translator.md R162). -/
def Obligations.SetrootMakesTheRootOrAborts : Prop :=
  ∀ (a b : Word) (s : State), s.phase = .idle →
    decode (Req.pack 0x33 a b) = .ok (.mmuSetroot a)
    ∧ (a.extractLsb' 0 12 ≠ 0 →
      exec (.mmuSetroot a) s =
        .next { s with rsp := none, events := [], cause := .abort, abortReason := .misalignedFrame, fatal := true, phase := .halt })
    ∧ (a.extractLsb' 0 12 = 0 → maxPages s.lastPpn ≤ (a >>> 12).toNat →
      exec (.mmuSetroot a) s =
        .next { s with rsp := none, events := [], cause := .abort, abortReason := .frameRange, fatal := true, phase := .halt })
    ∧ (a.extractLsb' 0 12 = 0 → (a >>> 12).toNat < maxPages s.lastPpn →
      exec (.mmuSetroot a) s =
        .next { s with root := (a >>> 12).setWidth 44, rootSet := true, rsp := some 0, events := [] })

/-- `MMU.GETROOT` (43_translator.md R163). -/
def Obligations.GetrootAnswersTheRootOrAborts : Prop :=
  ∀ (a b : Word) (s : State), s.phase = .idle →
    decode (Req.pack 0x34 a b) = .ok .mmuGetroot
    ∧ (s.rootSet = true →
      exec .mmuGetroot s = .next { s with rsp := some (s.root.setWidth 64 <<< 12), events := [] })
    ∧ (s.rootSet = false →
      exec .mmuGetroot s =
        .next { s with rsp := none, events := [], cause := .abort, abortReason := .rootUnset, fatal := true, phase := .halt })

/-- Step T1 (43_translator.md R152, R153). -/
def Obligations.AccessWithoutRootAborts : Prop :=
  ∀ (va b : Word) (s : State), s.phase = .idle → s.rootSet = false →
    exec (.mmuWalk va b) s = .next { s with rsp := none, events := [], cause := .abort, abortReason := .rootUnset, fatal := true, phase := .halt }
    ∧ exec (.mmuRead va b) s = .next { s with rsp := none, events := [], cause := .abort, abortReason := .rootUnset, fatal := true, phase := .halt }
    ∧ exec (.mmuWrite va b) s = .next { s with rsp := none, events := [], cause := .abort, abortReason := .rootUnset, fatal := true, phase := .halt }

/-- `MMU.WALK` on a mapped address (43_translator.md R157, 20_memory.md R66). -/
def Obligations.WalkAnswersTheLeafEntryAddress : Prop :=
  ∀ (va b : Word) (s : State), s.phase = .idle → Mapped s va →
    exec (.mmuWalk va b) s =
      .next { s with
        opc := .walk, va := va, wdata := b.extractLsb' 0 8, level := .l0, table := getPpn (entry1 s va)
        eaddr := leafAddr s va, entry := entry0 s va, faulted := false
        rsp := some ((leafAddr s va).setWidth 64)
        events := [.fetch (entryAt s.root (indexAt va .l2)),
          .fetch (entryAt (getPpn (entry2 s va)) (indexAt va .l1)), .fetch (leafAddr s va)] }

/-- `MMU.READ` on a readable mapping (43_translator.md R158, R161). -/
def Obligations.ReadAnswersTheTranslatedByte : Prop :=
  ∀ (va b : Word) (s : State), s.phase = .idle → Mapped s va → (entry0 s va).getLsbD 1 = true →
    (getPpn (entry0 s va)).toNat < maxPages s.lastPpn →
    exec (.mmuRead va b) s =
      .next { s with
        opc := .read, va := va, wdata := b.extractLsb' 0 8, level := .l0, table := getPpn (entry1 s va)
        eaddr := leafAddr s va, entry := entry0 s va, faulted := false
        rsp := some ((memRead1 s.pool.mem
          ((getPpn (entry0 s va)).toNat * 4096 + va.toNat % 4096)).setWidth 64)
        events := [.fetch (entryAt s.root (indexAt va .l2)),
          .fetch (entryAt (getPpn (entry2 s va)) (indexAt va .l1)), .fetch (leafAddr s va),
          .load (translate s va)] }

/-- `MMU.WRITE` on a writable mapping, with its frame (43_translator.md R159, R161). -/
def Obligations.WriteStoresOneByte : Prop :=
  ∀ (va b : Word) (s : State), s.phase = .idle → Mapped s va → (entry0 s va).getLsbD 2 = true →
    (getPpn (entry0 s va)).toNat < maxPages s.lastPpn → Memory.wf s.pool.mem →
    ∃ m : Memory,
      exec (.mmuWrite va b) s =
        .next { s with
          opc := .write, va := va, wdata := b.extractLsb' 0 8, level := .l0, table := getPpn (entry1 s va)
          eaddr := leafAddr s va, entry := entry0 s va, faulted := false
          pool := { s.pool with mem := m }
          rsp := some 0
          events := [.fetch (entryAt s.root (indexAt va .l2)),
            .fetch (entryAt (getPpn (entry2 s va)) (indexAt va .l1)), .fetch (leafAddr s va),
            .store (translate s va) (b.extractLsb' 0 8)] }
      ∧ ∀ a : Nat, memRead1 m a =
          if a = (getPpn (entry0 s va)).toNat * 4096 + va.toNat % 4096 then b.extractLsb' 0 8
          else memRead1 s.pool.mem a

/-- The default case (43_translator.md R172) with the null handler (60_exceptions.md R222). -/
def Obligations.NullHandlerAccessCompletesIffMapped : Prop :=
  ∀ (va b : Word) (s : State), s.phase = .idle → s.handler = .null →
    (∃ t, exec (.mmuWalk va b) s = .next t
      ∧ (Mapped s va → t.phase = .idle ∧ t.rsp.isSome = true)
      ∧ (¬Mapped s va → t.phase = .halt ∧ t.rsp = none ∧ (t.cause = .badAddress ∨ t.cause = .abort)))
    ∧ (∃ t, exec (.mmuRead va b) s = .next t
      ∧ (Mapped s va ∧ getRead (entry0 s va) = true ∧ inPool s.lastPpn (getPpn (entry0 s va)) = true →
        t.phase = .idle ∧ t.rsp.isSome = true)
      ∧ (¬(Mapped s va ∧ getRead (entry0 s va) = true ∧ inPool s.lastPpn (getPpn (entry0 s va)) = true) →
        t.phase = .halt ∧ t.rsp = none ∧ (t.cause = .badAddress ∨ t.cause = .abort)))
    ∧ (∃ t, exec (.mmuWrite va b) s = .next t
      ∧ (Mapped s va ∧ getWrite (entry0 s va) = true ∧ inPool s.lastPpn (getPpn (entry0 s va)) = true →
        t.phase = .idle ∧ t.rsp.isSome = true)
      ∧ (¬(Mapped s va ∧ getWrite (entry0 s va) = true ∧ inPool s.lastPpn (getPpn (entry0 s va)) = true) →
        t.phase = .halt ∧ t.rsp = none ∧ (t.cause = .badAddress ∨ t.cause = .abort)))

/-- Rows T3, T4a to T4e (43_translator.md R153). -/
def Obligations.PhaseMachineWalkRows : Prop :=
  ∀ s : State, s.phase = .walk →
    (maxPages s.lastPpn ≤ s.table.toNat →
      phaseStep s = .ok { s with cause := .abort, abortReason := .frameRange, fatal := true, phase := .halt })
    ∧ (s.table.toNat < maxPages s.lastPpn →
      ∀ (ea : Pa) (e : Word), ea.toNat = s.table.toNat * 4096 + 8 * (indexAt s.va s.level).toNat →
        e = memRead8 s.pool.mem ea.toNat →
        (isFault e s.level = true → s.faulted = false →
          phaseStep s = .ok { s with
            eaddr := ea, entry := e, faulted := true, phase := .hwait
            events := s.events ++ [.fetch ea] ++ [.call
              { virtualAddress := s.va, level := s.level, pageTable := s.table.setWidth 64 <<< 12 }] })
        ∧ (isFault e s.level = true → s.faulted = true →
          phaseStep s = .ok { s with
            eaddr := ea, entry := e, events := s.events ++ [.fetch ea]
            diagValid := true, diagVa := s.va, diagLevel := s.level, diagPpn := e.extractLsb' 20 44
            diagFlags := diagFlagsOf e, cause := .badAddress, fatal := true, phase := .halt })
        ∧ (∀ l, isFault e s.level = false → s.level.num = l.num + 1 →
          phaseStep s = .ok { s with
            eaddr := ea, entry := e, events := s.events ++ [.fetch ea]
            table := e.extractLsb' 20 44, level := l, faulted := false })
        ∧ (isFault e s.level = false → s.level = .l0 → s.opc = .walk →
          phaseStep s = .ok { s with
            eaddr := ea, entry := e, events := s.events ++ [.fetch ea]
            rsp := some (ea.setWidth 64), phase := .idle })
        ∧ (isFault e s.level = false → s.level = .l0 → s.opc ≠ .walk →
          phaseStep s = .ok { s with
            eaddr := ea, entry := e, events := s.events ++ [.fetch ea], faulted := false, phase := .perm }))

/-- Rows T5, T6, T8, T9 (43_translator.md R153, 60_exceptions.md R219). -/
def Obligations.PhaseMachineWaitRows : Prop :=
  ∀ (s : State) (p : Pool),
    (s.phase = .hwait →
      (handlerTurn s (faultRequest s s.level) = .completes .done p →
        phaseStep s = .ok { s with pool := p, agentTurns := turnsAfter s, phase := .walk })
      ∧ (∀ c : TermCause, handlerTurn s (faultRequest s s.level) = .completes (.terminate c) p →
        phaseStep s = .ok { s with
          pool := p, agentTurns := turnsAfter s, cause := c.cause, fatal := true, phase := .halt }))
    ∧ (s.phase = .pwait → s.eaddr.toNat + 8 ≤ poolBytes s.lastPpn →
      (handlerTurn s (faultRequest s .l0) = .completes .done p →
        phaseStep s = .ok { s with
          pool := p, agentTurns := turnsAfter s, entry := memRead8 p.mem s.eaddr.toNat, phase := .perm
          events := s.events ++ [.fetch s.eaddr] })
      ∧ (∀ c : TermCause, handlerTurn s (faultRequest s .l0) = .completes (.terminate c) p →
        phaseStep s = .ok { s with
          pool := p, agentTurns := turnsAfter s, cause := c.cause, fatal := true, phase := .halt }))

/-- Rows T7a to T7c, T10 to T12 (43_translator.md R153, R160, R161). `V` is not looked at again (U9). -/
def Obligations.PhaseMachineTransferRows : Prop :=
  ∀ s : State,
    (s.phase = .perm → ∀ bit : Bool,
      (s.opc = .read ∧ bit = s.entry.getLsbD 1) ∨ (s.opc = .write ∧ bit = s.entry.getLsbD 2) →
      (bit = true → phaseStep s = .ok { s with phase := .xfer })
      ∧ (bit = false → s.faulted = false →
        phaseStep s = .ok { s with
          faulted := true, phase := .pwait
          events := s.events ++ [.call
            { virtualAddress := s.va, level := .l0, pageTable := s.table.setWidth 64 <<< 12 }] })
      ∧ (bit = false → s.faulted = true →
        phaseStep s = .ok { s with
          diagValid := true, diagVa := s.va, diagLevel := .l0, diagPpn := s.entry.extractLsb' 20 44
          diagFlags := diagFlagsOf s.entry, cause := .badAddress, fatal := true, phase := .halt }))
    ∧ (s.phase = .xfer →
      (maxPages s.lastPpn ≤ (s.entry.extractLsb' 20 44).toNat →
        phaseStep s = .ok { s with cause := .abort, abortReason := .frameRange, fatal := true, phase := .halt })
      ∧ ((s.entry.extractLsb' 20 44).toNat < maxPages s.lastPpn →
        ∀ pa : Pa, pa.toNat = (s.entry.extractLsb' 20 44).toNat * 4096 + s.va.toNat % 4096 →
          (s.opc = .read →
            phaseStep s = .ok { s with
              rsp := some ((memRead1 s.pool.mem pa.toNat).setWidth 64), phase := .idle
              events := s.events ++ [.load pa] })
          ∧ (s.opc = .write →
            phaseStep s = .ok { s with
              pool := { s.pool with mem := memWrite1 s.pool.mem pa.toNat s.wdata }
              rsp := some 0, phase := .idle, events := s.events ++ [.store pa s.wdata] })))

/-- The sequential form (43_translator.md R166) refines to the phase machine (R153). -/
def Obligations.SequentialFormAgrees : Prop :=
  ∀ (s : State) (va b : Word), s.phase = .idle →
    (∃ t, exec (.mmuWalk va b) s = .next t ∧ t.Shows va (seqAccess s .walk va b s.scene).1
      ∧ t.pool = (seqAccess s .walk va b s.scene).2.pool ∧ t.agentTurns = (seqAccess s .walk va b s.scene).2.turns
      ∧ t.events = (seqAccess s .walk va b s.scene).2.events)
    ∧ (∃ t, exec (.mmuRead va b) s = .next t ∧ t.Shows va (seqAccess s .read va b s.scene).1
      ∧ t.pool = (seqAccess s .read va b s.scene).2.pool ∧ t.agentTurns = (seqAccess s .read va b s.scene).2.turns
      ∧ t.events = (seqAccess s .read va b s.scene).2.events)
    ∧ (∃ t, exec (.mmuWrite va b) s = .next t ∧ t.Shows va (seqAccess s .write va b s.scene).1
      ∧ t.pool = (seqAccess s .write va b s.scene).2.pool ∧ t.agentTurns = (seqAccess s .write va b s.scene).2.turns
      ∧ t.events = (seqAccess s .write va b s.scene).2.events)

/-- The bounds of an access (43_translator.md R164). -/
def Obligations.AccessEventBounds : Prop :=
  ∀ (s : State) (va b : Word), s.phase = .idle →
    (∃ t, exec (.mmuWalk va b) s = .next t
      ∧ calls t.events ≤ 3 ∧ fetches t.events ≤ 6 ∧ dataAccesses t.events = 0
      ∧ (t.rsp.isSome = true → 3 ≤ fetches t.events))
    ∧ ∀ i ∈ [Instr.mmuRead va b, Instr.mmuWrite va b], ∃ t, exec i s = .next t
      ∧ calls t.events ≤ 4 ∧ fetches t.events ≤ 7
      ∧ (t.rsp.isSome = true → 3 ≤ fetches t.events ∧ dataAccesses t.events = 1)
      ∧ (t.rsp = none → dataAccesses t.events = 0)

/-- Liveness (70_reset_and_hazards.md R253). A call that does not end is a `stuck` turn of an outside handler: no turn
left or a request to the block (log 13, DEDUCED), and by the model's choice also an illegal completion word (log 14)
and an access outside the pool (log 15). -/
def Obligations.EveryAccessEnds : Prop :=
  ∀ (s : State) (va b : Word), s.phase = .idle →
    ∀ i ∈ [Instr.mmuWalk va b, Instr.mmuRead va b, Instr.mmuWrite va b], ∃ t, exec i s = .next t
      ∧ ((t.phase = .idle ∧ t.rsp.isSome = true)
        ∨ (t.phase = .halt ∧ t.rsp = none)
        ∨ (s.handler = .agent ∧ t.rsp = none
          ∧ ∃ (l : Level) (f : Fault), handlerTurn t (faultRequest t l) = .stuck f
            ∧ (t.phase = .hwait ∧ l = t.level ∨ t.phase = .pwait ∧ l = .l0)))

/-- The fatal fault is raised "at steps T4b and T7c and nowhere else" (60_exceptions.md R214). -/
def Obligations.FatalFaultNeedsARetry : Prop :=
  ∀ s t : State, phaseStep s = .ok t → s.diagValid = false → t.diagValid = true →
    (s.phase = .walk ∨ s.phase = .perm) ∧ s.faulted = true
    ∧ t.phase = .halt ∧ t.cause = .badAddress ∧ t.fatal = true ∧ t.rsp = s.rsp

/-- Bits 63:39 of an address take no part in translation (20_memory.md R51, 30_encoding.md R80). Both runs have the
same list of turns of an outside handler (log 2, DESIGN CHOICE): one that looks at bits 63:39, which it is passed, and
acts differently is not covered. The null and the COW handler are covered whole. -/
def Obligations.UnusedAddressBitsDoNotMatter : Prop :=
  ∀ (s : State) (va va' b : Word), s.phase = .idle → va.extractLsb' 0 39 = va'.extractLsb' 0 39 →
    ∀ ij ∈ [(Instr.mmuWalk va b, Instr.mmuWalk va' b), (Instr.mmuRead va b, Instr.mmuRead va' b),
        (Instr.mmuWrite va b, Instr.mmuWrite va' b)],
      ∃ t t', exec ij.1 s = .next t ∧ exec ij.2 s = .next t'
        ∧ t'.phase = t.phase ∧ t'.rsp = t.rsp ∧ t'.cause = t.cause ∧ t'.abortReason = t.abortReason
        ∧ t'.pool = t.pool ∧ t'.agentTurns = t.agentTurns
        ∧ t'.diagValid = t.diagValid ∧ t'.diagPpn = t.diagPpn ∧ t'.diagLevel = t.diagLevel
        ∧ t'.diagFlags = t.diagFlags

/-- What the walker reads of an entry (30_encoding.md R82, 43_translator.md R165): the functions it tests, and the
rows that use them. The marker D reaches the diagnostic alone (10_state.md R28). -/
def Obligations.UnnamedEntryBitsDoNotMatter : Prop :=
  ∀ e e' : Word, (e ^^^ e') &&& 0xFFFFFFFFFFF00007 = 0 →
    ((∀ l, isFault e l = isFault e' l) ∧ (∀ op, need e op = need e' op) ∧ getPpn e = getPpn e')
    ∧ (∀ (s t : State) (m : Memory), s.phase = .walk →
      e = memRead8 s.pool.mem (entryAt s.table (indexAt s.va s.level)).toNat →
      e' = memRead8 m (entryAt s.table (indexAt s.va s.level)).toNat →
      phaseStep s = .ok t →
      ∃ (x : Word) (d : BitVec 4), d.extractLsb' 0 3 = t.diagFlags.extractLsb' 0 3
        ∧ phaseStep { s with pool := { s.pool with mem := m } } =
          .ok { t with pool := { t.pool with mem := m }, entry := x, diagFlags := d })
    ∧ (∀ s : State, s.phase = .perm ∨ s.phase = .xfer → s.entry = e →
      (∀ f, phaseStep s = .error f → phaseStep { s with entry := e' } = .error f)
      ∧ ∀ t, phaseStep s = .ok t →
        ∃ d : BitVec 4, d.extractLsb' 0 3 = t.diagFlags.extractLsb' 0 3
          ∧ phaseStep { s with entry := e' } = .ok { t with entry := e', diagFlags := d })

/-- What the walker writes (43_translator.md R165, R168; 60_exceptions.md R213). -/
def Obligations.HaltedAccessStoresNothing : Prop :=
  ∀ (i : Instr) (s : State), s.phase = .idle → s.handler = .null →
    ∃ t, exec i s = .next t
      ∧ t.pool.allocSet = s.pool.allocSet ∧ t.pool.live = s.pool.live ∧ t.pool.refcnt = s.pool.refcnt
      ∧ ((∀ va b, i ≠ .mmuWrite va b) → t.pool.mem = s.pool.mem)
      ∧ (t.rsp = none → t.pool.mem = s.pool.mem)

/-- What an access leaves unchanged (10_state.md R23, R28; 43_translator.md R152, R153, R165). -/
def Obligations.AccessFrame : Prop :=
  ∀ (s : State) (va b : Word), s.phase = .idle →
    ∀ i ∈ [Instr.mmuWalk va b, Instr.mmuRead va b, Instr.mmuWrite va b], ∃ t, exec i s = .next t
      ∧ t.root = s.root ∧ t.rootSet = s.rootSet ∧ t.lastPpn = s.lastPpn ∧ t.handler = s.handler
      ∧ t.hostQueue = s.hostQueue ∧ t.hostVal = s.hostVal
      ∧ (t.rsp.isSome = true → t.fatal = s.fatal ∧ t.cause = s.cause ∧ t.abortReason = s.abortReason
        ∧ t.diagValid = s.diagValid ∧ t.diagVa = s.diagVa ∧ t.diagLevel = s.diagLevel ∧ t.diagPpn = s.diagPpn
        ∧ t.diagFlags = s.diagFlags)
      ∧ (s.handler = .null → ∀ a, memRead1 t.pool.mem a ≠ memRead1 s.pool.mem a →
        i = .mmuWrite va b ∧ Mapped s va ∧ a = (translate s va).toNat)

/-- Acceptance (30_encoding.md R96): the model's form of a request that waits, log 11. -/
def Obligations.RequestWaitsWhileBusy : Prop :=
  ∀ (i : Instr) (s : State), s.phase ≠ .idle → exec i s = .next s

/-- Reserved operation numbers (30_encoding.md R89). -/
def Obligations.ReservedNumbersAbort : Prop :=
  ∀ r : Req,
    ((∃ i, decode r = .ok i) ↔ ¬((Req.op r).toNat ∈ [0x03, 0x07, 0x0B, 0x0F]
      ∨ (0x12 ≤ (Req.op r).toNat ∧ (Req.op r).toNat ≤ 0x1F)
      ∨ (0x24 ≤ (Req.op r).toNat ∧ (Req.op r).toNat ≤ 0x2F)
      ∨ 0x35 ≤ (Req.op r).toNat))
    ∧ ((∀ i, decode r ≠ .ok i) → ∀ (s : State) (q : List HostAction), s.phase = .idle →
      s.hostQueue = .request r :: q →
      step s = .next { s with
        hostQueue := q, rsp := none, events := []
        cause := .abort, abortReason := .illegalOp, fatal := true, phase := .halt })

/-- The command port (30_encoding.md R84, R88, R96). The host's queue (log 7) and `State.withFetchWord`, which sets
`PHASE` to `IDLE` (log 23), are the model's choices (DESIGN CHOICE). -/
def Obligations.StepRunsTheDecodedRequest : Prop :=
  (∀ (s : State) (r : Req) (q : List HostAction) (i : Instr),
    s.phase = .idle → s.hostQueue = .request r :: q → decode r = .ok i →
    step s = exec i { s with hostQueue := q })
  ∧ (∀ (s : State) (i : Instr), step (s.withFetchWord 136 (encode i).toNat) = exec i { s with phase := .idle })

/-- Words of 95_test_vectors.md. -/
def Obligations.RequestWordsDecode : Prop :=
  decode 0x0A0000000000300007FFFFFFFFFFFFFFFF = .ok (.pteWclr 0x300007)
  ∧ decode 0x1100000000000000070000000000000003 = .ok (.ptePpnset 0x7 3)
  ∧ decode 0x200000000040403ABC0000000000000002 = .ok (.navIndex 0x40403ABC 2)
  ∧ decode 0x2100000000000020000000000000000003 = .ok (.navEntryat 0x2000 3)
  ∧ decode 0x310000000040403ABC0000000000000000 = .ok (.mmuRead 0x40403ABC 0)
  ∧ decode 0x320000000040403ABC0000000000000001 = .ok (.mmuWrite 0x40403ABC 1)
  ∧ decode 0x3300000000000040000000000000000000 = .ok (.mmuSetroot 0x4000)

/-- Decode and encode agree (30_encoding.md R84, R88). -/
def Obligations.DecodeInvertsEncode : Prop :=
  ∀ i : Instr, decode (encode i) = .ok i

/-- The other direction of the round trip (30_encoding.md R84, R90). `MMU.WALK` and `MMU.READ` keep `B` although R157
and R158 call it unused, because R152 latches it (log 27, DEDUCED). -/
def Obligations.EncodeInvertsDecode : Prop :=
  ∀ (r : Req) (i : Instr), decode r = .ok i →
    Req.op (encode i) = Req.op r
    ∧ Req.a (encode i) = (if (Req.op r).toNat = 0x34 then 0 else Req.a r)
    ∧ Req.b (encode i) =
      (if (Req.op r).toNat ∈ [0x11, 0x20, 0x21, 0x30, 0x31, 0x32] then Req.b r else 0)

/-- The invariant at reset (10_state.md R20). -/
def Obligations.InvariantHoldsAtReset : Prop :=
  State.reset.Inv

/-- The invariant is inductive over steps (10_state.md R23, R27, R28, R30). -/
def Obligations.EveryStepKeepsTheInvariant : Prop :=
  ∀ s t : State, s.Inv → step s = .next t → t.Inv

/-- The parameters are fixed for a run (10_state.md R20, R34). -/
def Obligations.ParametersNeverChange : Prop :=
  ∀ s t : State, step s = .next t → t.lastPpn = s.lastPpn ∧ t.handler = s.handler

/-- "Written only by `MMU.SETROOT`" (10_state.md R23). -/
def Obligations.OnlySetrootWritesTheRoot : Prop :=
  ∀ s t : State, step s = .next t → (t.root ≠ s.root ∨ t.rootSet ≠ s.rootSet) →
    ∃ q, s.hostQueue = .reset :: q
      ∨ (s.phase = .idle ∧ ∃ r f, s.hostQueue = .request r :: q ∧ decode r = .ok (.mmuSetroot f))

/-- `HALT` is absorbing (60_exceptions.md R217, 10_state.md R24). -/
def Obligations.HaltIsForGood : Prop :=
  ∀ s : State, s.phase = .halt →
    ((∀ q, s.hostQueue ≠ .reset :: q) → step s = .fault .halted)
    ∧ (∀ t, step s = .next t → ∃ q, s.hostQueue = .reset :: q ∧ t = resetMachine { s with hostQueue := q })

/-- Reset (70_reset_and_hazards.md R240; values of 10_state.md R20). What becomes of the parameters, of the host's
later actions and of an outside handler's turns is the model's choice (log 21). -/
def Obligations.ResetRestoresTheResetValues : Prop :=
  ∀ (s : State) (q : List HostAction), s.hostQueue = .reset :: q →
    ∃ t, step s = .next t
      ∧ t.phase = .idle ∧ t.rootSet = false ∧ t.faulted = false ∧ t.fatal = false ∧ t.cause = .none
      ∧ t.abortReason = .none ∧ t.diagValid = false
      ∧ (∀ a, memRead1 t.pool.mem a = 0) ∧ t.pool.allocSet = [] ∧ t.pool.live = 0 ∧ (∀ f, refcntOf t.pool f = 0)
      ∧ t.rsp = none
      ∧ t.lastPpn = s.lastPpn ∧ t.handler = s.handler ∧ t.hostQueue = q
      ∧ (s.phase = .hwait ∨ s.phase = .pwait → t.agentTurns = turnsAfter s)
      ∧ (s.phase ≠ .hwait → s.phase ≠ .pwait → t.agentTurns = s.agentTurns)

/-- `MemRead` and `MemWrite` (20_memory.md R52, R54). -/
def Obligations.EntryReadAfterWrite : Prop :=
  ∀ (m : Memory) (a : Nat) (v : Word), Memory.wf m →
    memRead8 (memWrite8 m a v) a = v
    ∧ (∀ i < 8, memRead1 (memWrite8 m a v) (a + i) = v.extractLsb' (8 * i) 8)
    ∧ (∀ b, b < a ∨ a + 8 ≤ b → memRead1 (memWrite8 m a v) b = memRead1 m b)
    ∧ Memory.wf (memWrite8 m a v)

/-- `alloc()` (40_frame_pool_env.md R111). -/
def Obligations.AllocTakesTheLowestFreeFrame : Prop :=
  ∀ (last : Ppn) (p : Pool),
    (p.live = maxPages last → allocFrame last p = .stop (.terminate .outOfMemory) p)
    ∧ (p.live < maxPages last → p.Ok last → p.Counted →
      ∃ (f : Ppn) (q : Pool), allocFrame last p = .ok f q
        ∧ f.toNat < maxPages last ∧ f.toNat ∉ p.allocSet ∧ (∀ k < f.toNat, k ∈ p.allocSet)
        ∧ (∀ k, k ∈ q.allocSet ↔ k = f.toNat ∨ k ∈ p.allocSet)
        ∧ q.live = p.live + 1 ∧ q.mem = p.mem ∧ q.refcnt = p.refcnt)

/-- `free(frame)` (40_frame_pool_env.md R112). That `LIVE` = 0 with a frame in `ALLOC`, which breaks R114, stays 0 is
the model's reading (log 19, DEDUCED). -/
def Obligations.FreeZeroesAndReleasesTheFrame : Prop :=
  ∀ (last : Ppn) (frame : Word) (p : Pool),
    (frame.extractLsb' 0 12 ≠ 0 → freeFrame last frame p = .stop (.abort .misalignedFrame) p)
    ∧ (frame.extractLsb' 0 12 = 0 → maxPages last ≤ frame.toNat / 4096 →
      freeFrame last frame p = .stop (.abort .frameRange) p)
    ∧ (frame.extractLsb' 0 12 = 0 → frame.toNat / 4096 < maxPages last → frame.toNat / 4096 ∉ p.allocSet →
      freeFrame last frame p = .stop (.abort .envAssert) p)
    ∧ (frame.extractLsb' 0 12 = 0 → frame.toNat / 4096 < maxPages last → frame.toNat / 4096 ∈ p.allocSet →
      ∃ q : Pool, freeFrame last frame p = .ok () q
        ∧ (∀ a, memRead1 q.mem a = if a / 4096 = frame.toNat / 4096 then 0 else memRead1 p.mem a)
        ∧ (∀ k, k ∈ q.allocSet ↔ k ≠ frame.toNat / 4096 ∧ k ∈ p.allocSet)
        ∧ (0 < p.live → q.live + 1 = p.live) ∧ (p.live = 0 → q.live = 0) ∧ q.refcnt = p.refcnt)

/-- The allocator's invariants (40_frame_pool_env.md R114). -/
def Obligations.AllocatorInvariantIsKept : Prop :=
  ∀ (last : Ppn) (p : Pool), p.Ok last → p.Counted → p.FreeZero →
    (∀ f q, allocFrame last p = .ok f q →
      q.Counted ∧ q.live ≤ maxPages last ∧ q.FreeZero ∧ ∀ a, a / 4096 = f.toNat → memRead1 q.mem a = 0)
    ∧ (∀ frame q, freeFrame last frame p = .ok () q → q.Counted ∧ q.live ≤ maxPages last ∧ q.FreeZero)

/-- The fork precondition (44_fork_cow_env.md R190). -/
def Obligations.ForkPrecondition : Prop :=
  ∀ (s : State) (q : List HostAction), s.phase = .idle → maxPages s.lastPpn < 2 * s.pool.live →
    s.hostQueue = .forkCopy :: q ∨ s.hostQueue = .forkCopyOnWrite :: q →
    step s = .next { s with
      hostQueue := q, hostVal := none, cause := .outOfMemory, fatal := true, phase := .halt }

/-- The eager fork shares nothing (44_fork_cow_env.md R191). -/
def Obligations.EagerForkLeavesTheOriginalAlone : Prop :=
  ∀ (last root : Ppn) (rootSet : Bool) (p q : Pool) (f : Ppn), p.Ok last →
    forkCopy last rootSet root p = .ok f q →
    f.toNat ∉ p.allocSet
    ∧ (∀ a, a / 4096 ∈ p.allocSet → memRead1 q.mem a = memRead1 p.mem a)
    ∧ (∀ k ∈ p.allocSet, k ∈ q.allocSet)
    ∧ q.refcnt = p.refcnt

/-- The lazy fork of a leaf and of a leaf table (44_fork_cow_env.md R192): "both trees hold the same leaf entries, bit
for bit". -/
def Obligations.LazyForkSharesALeafTable : Prop :=
  (∀ (last : Ppn) (a : Pa) (e : Word) (p : Pool), p.Ok last →
    (e.getLsbD 2 = true → (getPpn e).toNat < maxPages last →
      ∃ (e' : Word) (q : Pool), shareLeaf last a e p = .ok e' q
        ∧ e' = (e &&& 0xFFFFFFFFFFFFFFFB) ||| 0x100
        ∧ memRead8 q.mem a.toNat = e'
        ∧ (∀ b, b < a.toNat ∨ a.toNat + 8 ≤ b → memRead1 q.mem b = memRead1 p.mem b)
        ∧ (∀ f, refcntOf q f = if f = getPpn e then refcntOf p f + 2 else refcntOf p f)
        ∧ q.allocSet = p.allocSet ∧ q.live = p.live)
    ∧ (e.getLsbD 2 = true → maxPages last ≤ (getPpn e).toNat →
      ∃ q : Pool, shareLeaf last a e p = .stop (.abort .frameRange) q
        ∧ q.refcnt = p.refcnt ∧ q.allocSet = p.allocSet ∧ q.live = p.live)
    ∧ (e.getLsbD 2 = false → shareLeaf last a e p = .ok e p))
  ∧ ∀ (last src dst : Ppn) (path : List Ppn) (p p' : Pool) (old : Index → Word), p.Ok last → src.toNat ∈ p.allocSet →
    allocFrame last p = .ok dst p' → (∀ i, old i = memRead8 p.mem (entryAt src i).toNat) →
    ((∀ i, (old i).getLsbD 0 = true → (old i).getLsbD 2 = true → (getPpn (old i)).toNat < maxPages last) →
      ∃ q : Pool, forkTable last (shareLeaf last) 0 path src p = .ok dst q
        ∧ (∀ (i : Index) (e : Word),
          e = (if (old i).getLsbD 0 && (old i).getLsbD 2 then (old i &&& 0xFFFFFFFFFFFFFFFB) ||| 0x100 else old i) →
          memRead8 q.mem (entryAt src i).toNat = e ∧ memRead8 q.mem (entryAt dst i).toNat = e)
        ∧ (∀ a, a / 4096 ≠ src.toNat → a / 4096 ≠ dst.toNat → memRead1 q.mem a = memRead1 p.mem a)
        ∧ (∀ f, refcntOf q f = refcntOf p f + 2 * (List.range 512).countP fun k =>
          (old (BitVec.ofNat 9 k)).getLsbD 0 && (old (BitVec.ofNat 9 k)).getLsbD 2
            && decide (getPpn (old (BitVec.ofNat 9 k)) = f))
        ∧ q.allocSet = p'.allocSet ∧ q.live = p'.live)
    ∧ ((∃ i, (old i).getLsbD 0 = true ∧ (old i).getLsbD 2 = true ∧ maxPages last ≤ (getPpn (old i)).toNat) →
      ∃ q : Pool, forkTable last (shareLeaf last) 0 path src p = .stop (.abort .frameRange) q)

/-- The cases of `cow_handler` that copy nothing (44_fork_cow_env.md R193). -/
def Obligations.CowHandlerCases : Prop :=
  ∀ (last : Ppn) (r : FaultRequest) (p : Pool) (ea : Nat) (e : Word),
    (r.level ≠ .l0 → cowHandler last r p = .completes .done p)
    ∧ (r.level = .l0 → ea = (r.pageTable + 8 * (indexAt r.virtualAddress .l0).setWidth 64).toNat →
      ea + 8 ≤ poolBytes last → e = memRead8 p.mem ea →
      (e.getLsbD 0 = false → cowHandler last r p = .completes .done p)
      ∧ (maxPages last ≤ (getPpn e).toNat → cowHandler last r p = .completes .done p)
      ∧ ((getPpn e).toNat < maxPages last → refcntOf p (getPpn e) = 0 → cowHandler last r p = .completes .done p)
      ∧ (e.getLsbD 0 = true → (getPpn e).toNat < maxPages last → refcntOf p (getPpn e) = 1 →
        cowHandler last r p = .completes .done
          (if e.getLsbD 8 then { p with mem := memWrite8 p.mem ea ((e ||| 0x4) &&& 0xFFFFFFFFFFFFFEFF) } else p)))

/-- The copying case of `cow_handler` (44_fork_cow_env.md R193, C4). -/
def Obligations.CowHandlerCopiesASharedFrame : Prop :=
  ∀ (last : Ppn) (r : FaultRequest) (p : Pool) (ea : Nat) (e : Word), p.Ok last → r.level = .l0 →
    ea = (r.pageTable + 8 * (indexAt r.virtualAddress .l0).setWidth 64).toNat → ea % 8 = 0 → ea + 8 ≤ poolBytes last →
    ea / 4096 ∈ p.allocSet → e = memRead8 p.mem ea →
    e.getLsbD 0 = true → (getPpn e).toNat < maxPages last → 1 < refcntOf p (getPpn e) →
    (p.live = maxPages last → cowHandler last r p = .completes (.terminate .outOfMemory) p)
    ∧ (∀ (new : Ppn) (q : Pool), allocFrame last p = .ok new q →
      ∃ q' : Pool, cowHandler last r p = .completes .done q'
        ∧ (∀ a, a / 4096 = new.toNat → memRead1 q'.mem a = memRead1 p.mem ((getPpn e).toNat * 4096 + a % 4096))
        ∧ memRead8 q'.mem ea = (setPpn e new ||| 0x4) &&& 0xFFFFFFFFFFFFFEFF
        ∧ (∀ a, a / 4096 ≠ new.toNat → a < ea ∨ ea + 8 ≤ a → memRead1 q'.mem a = memRead1 p.mem a)
        ∧ (∀ f, refcntOf q' f = if f = getPpn e then refcntOf p f - 1 else refcntOf p f)
        ∧ q'.allocSet = q.allocSet ∧ q'.live = q.live)

/-- The formats of 30_encoding.md R86, R94, R95 and 10_state.md R28, and the numbers of 10_state.md R27 and
60_exceptions.md R215. -/
def Obligations.PortWordFormats : Prop :=
  (∀ r : FaultRequest,
    r.word.extractLsb' 66 64 = r.virtualAddress ∧ (r.word.extractLsb' 64 2).toNat = r.level.num
    ∧ r.word.extractLsb' 0 64 = r.pageTable)
  ∧ (∀ s : State,
    s.diagWord.getLsbD 114 = s.diagValid ∧ s.diagWord.extractLsb' 50 64 = s.diagVa
    ∧ (s.diagWord.extractLsb' 48 2).toNat = s.diagLevel.num ∧ s.diagWord.extractLsb' 4 44 = s.diagPpn
    ∧ s.diagWord.extractLsb' 0 4 = s.diagFlags)
  ∧ (∀ s : State,
    s.statusWord.getLsbD 7 = s.fatal ∧ s.statusWord.extractLsb' 4 3 = s.cause.code
    ∧ s.statusWord.extractLsb' 0 4 = s.abortReason.code)
  ∧ (∀ e : Word,
    (diagFlagsOf e).getLsbD 3 = e.getLsbD 8 ∧ (diagFlagsOf e).getLsbD 2 = e.getLsbD 2
    ∧ (diagFlagsOf e).getLsbD 1 = e.getLsbD 1 ∧ (diagFlagsOf e).getLsbD 0 = e.getLsbD 0)
  ∧ (Cause.none.code = 0 ∧ Cause.badAddress.code = 1 ∧ Cause.outOfMemory.code = 2 ∧ Cause.initFailure.code = 3
    ∧ Cause.abort.code = 4)
  ∧ (AbortReason.none.code = 0 ∧ AbortReason.illegalOp.code = 1 ∧ AbortReason.misalignedFrame.code = 2
    ∧ AbortReason.frameRange.code = 3 ∧ AbortReason.ppnRange.code = 4 ∧ AbortReason.badLevel.code = 5
    ∧ AbortReason.badIndex.code = 6 ∧ AbortReason.rootUnset.code = 7 ∧ AbortReason.envAssert.code = 8)

/-- The completion word (30_encoding.md R87, 60_exceptions.md R216). -/
def Obligations.CompletionWords : Prop :=
  (∀ w : BitVec 4, w.toNat < 8 → Completion.ofFrsp w = some .done)
  ∧ Completion.ofFrsp 0x9 = some (.terminate .badAddress)
  ∧ Completion.ofFrsp 0xA = some (.terminate .outOfMemory)
  ∧ Completion.ofFrsp 0xB = some (.terminate .initFailure)
  ∧ (∀ w : BitVec 4, w.toNat = 8 ∨ 12 ≤ w.toNat → Completion.ofFrsp w = none)
  ∧ (∀ c : Completion, Completion.ofFrsp c.toFrsp = some c)

/-- An `alloc()` that terminates in the handler (40_frame_pool_env.md R115, 60_exceptions.md R216; vector E6). -/
def Obligations.HandlerTerminationHaltsWithItsCause : Prop :=
  ∀ s : State, s.Inv → s.phase = .pwait → s.handler = .cow → s.pool.live = maxPages s.lastPpn →
    ∀ e : Word, e = memRead8 s.pool.mem s.eaddr.toNat →
      e.getLsbD 0 = true → (getPpn e).toNat < maxPages s.lastPpn → 1 < refcntOf s.pool (getPpn e) →
      phaseStep s = .ok { s with cause := .outOfMemory, fatal := true, phase := .halt }

/-- The operand domains (30_encoding.md R90) and the purity of the codec (41_pte_codec.md R134). -/
def Obligations.WellFormedCodecNeverAborts : Prop :=
  ∀ (i : Instr) (s : State), s.phase = .idle → i.op.toNat ≤ 0x20 →
    (i.wellFormed = true → ∃ r : Word, exec i s = .next { s with rsp := some r, events := [] })
    ∧ (i.wellFormed = false → ∃ t, exec i s = .next t ∧ t.phase = .halt ∧ t.cause = .abort ∧ t.rsp = none
      ∧ t.pool = s.pool ∧ t.root = s.root ∧ t.rootSet = s.rootSet)

/-- `Terminate(c)` from the host (60_exceptions.md R216 (b); 92_eei_decisions.md D24: "a handler or host may pass
it"). That it may name any of the three conditions is log 22 (DEDUCED). -/
def Obligations.HostMayEndTheProcess : Prop :=
  (∀ (s : State) (q : List HostAction) (c : TermCause), s.phase = .idle → s.hostQueue = .terminate c :: q →
    step s = .next { s with hostQueue := q, hostVal := none, cause := c.cause, fatal := true, phase := .halt })
  ∧ TermCause.badAddress.cause.code = 1 ∧ TermCause.outOfMemory.cause.code = 2 ∧ TermCause.initFailure.cause.code = 3

/-- "a tree with a cycle does not terminate" (44_fork_cow_env.md R191; 93_implementation_defined.md U11 `stuck`).
Which entries close a cycle is log 18 (DEDUCED). -/
def Obligations.ForkIntoACycleDoesNotEnd : Prop :=
  (∀ (last src dst : Ppn) (leaf : Pa → Word → Pool → PoolResult Word) (l : Nat) (path : List Ppn) (p p' : Pool)
      (i : Index) (e : Word),
    p.Ok last → src.toNat ∈ p.allocSet → allocFrame last p = .ok dst p' →
    (∀ j < i, (memRead8 p.mem (entryAt src j).toNat).getLsbD 0 = false) →
    e = memRead8 p.mem (entryAt src i).toNat → e.getLsbD 0 = true → (getPpn e).toNat < maxPages last →
    getPpn e ∈ src :: path → forkTable last leaf (l + 1) path src p = .fault .forkCycle)
  ∧ (∀ (s : State) (q : List HostAction) (i : Index) (e : Word),
    s.phase = .idle → s.hostQueue = .forkCopy :: q ∨ s.hostQueue = .forkCopyOnWrite :: q →
    s.pool.Ok s.lastPpn → s.pool.Counted → 2 * s.pool.live ≤ maxPages s.lastPpn →
    s.rootSet = true → s.root.toNat ∈ s.pool.allocSet →
    (∀ j < i, (memRead8 s.pool.mem (entryAt s.root j).toNat).getLsbD 0 = false) →
    e = memRead8 s.pool.mem (entryAt s.root i).toNat → e.getLsbD 0 = true → getPpn e = s.root →
    step s = .fault .forkCycle)
  ∧ (∀ (last root : Ppn) (rootSet : Bool) (p : Pool) (f : Fault),
    forkCopy last rootSet root p = .fault f ∨ forkCopyOnWrite last rootSet root p = .fault f → f = .forkCycle)
end

