-- ==== Sys2Proof/Laws/Sparse.lean ====
section
/-! SUPPORT. Sparse maps: reading after writing, and the canonical form. -/

namespace Sys2Proof.Machine

section
variable {α : Type} {d : α}

theorem sparseGet_of_not_mem {m : List (Nat × α)} {k : Nat} (h : ∀ c ∈ m, c.1 ≠ k) : sparseGet d m k = d := by
  induction m with
  | nil => rfl
  | cons c m ih =>
    rw [sparseGet, if_neg (h c (by simp)), ih fun c hc => h c (List.mem_cons_of_mem _ hc)]

theorem sparseGet_of_mem {m : List (Nat × α)} (hm : m.Pairwise (fun x y => x.1 < y.1)) {c : Nat × α} (h : c ∈ m) :
    sparseGet d m c.1 = c.2 := by
  induction m with
  | nil => simp at h
  | cons x m ih =>
    rcases List.mem_cons.1 h with rfl | h
    · simp [sparseGet]
    · have := List.rel_of_pairwise_cons hm h
      rw [sparseGet, if_neg (by omega), ih hm.of_cons h]

/-- What is read as another value than `d` is listed. -/
theorem mem_of_sparseGet_ne {m : List (Nat × α)} {k : Nat} (h : sparseGet d m k ≠ d) : (k, sparseGet d m k) ∈ m := by
  induction m with
  | nil => simp [sparseGet] at h
  | cons c m ih =>
    by_cases hk : c.1 = k
    · subst hk; rw [sparseGet, if_pos rfl]; exact List.mem_cons_self
    · rw [sparseGet, if_neg hk] at h ⊢
      exact List.mem_cons_of_mem _ (ih h)

/-- Two canonical maps that read alike everywhere are the same data. -/
theorem sparse_ext {m n : List (Nat × α)} (hm : SparseWf d m) (hn : SparseWf d n)
    (h : ∀ k, sparseGet d m k = sparseGet d n k) : m = n := by
  refine List.Perm.eq_of_pairwise (le := fun x y => x.1 < y.1) ?_ hm.1 hn.1 ?_
  · intro a b _ _ h1 h2; omega
  · have nodup : ∀ {l : List (Nat × α)}, l.Pairwise (fun x y => x.1 < y.1) → l.Nodup := fun hl =>
      hl.imp fun {a b} hab => by rintro rfl; omega
    refine (List.perm_ext_iff_of_nodup (nodup hm.1) (nodup hn.1)).2 fun c => ⟨fun hc => ?_, fun hc => ?_⟩
    · have e : sparseGet d n c.1 = c.2 := by rw [← h, sparseGet_of_mem hm.1 hc]
      have := mem_of_sparseGet_ne (d := d) (m := n) (k := c.1) (by rw [e]; exact hm.2 c hc)
      rwa [e] at this
    · have e : sparseGet d m c.1 = c.2 := by rw [h, sparseGet_of_mem hn.1 hc]
      have := mem_of_sparseGet_ne (d := d) (m := m) (k := c.1) (by rw [e]; exact hn.2 c hc)
      rwa [e] at this

variable [DecidableEq α]

/-- A write lists no new key but its own. -/
theorem mem_sparsePut {m : List (Nat × α)} {k : Nat} {v : α} {c : Nat × α} (h : c ∈ sparsePut d m k v) :
    (c = (k, v) ∧ v ≠ d) ∨ c ∈ m := by
  induction m with
  | nil =>
    simp only [sparsePut] at h
    split at h <;> simp_all
  | cons x m ih =>
    simp only [sparsePut] at h
    split_ifs at h
    · exact .inr h
    · rcases List.mem_cons.1 h with h | h
      · exact .inl ⟨h, by assumption⟩
      · exact .inr h
    · exact .inr (List.mem_cons_of_mem _ h)
    · rcases List.mem_cons.1 h with h | h
      · exact .inl ⟨h, by assumption⟩
      · exact .inr (List.mem_cons_of_mem _ h)
    · rcases List.mem_cons.1 h with h | h
      · exact .inr (h ▸ List.mem_cons_self)
      · exact (ih h).imp id (List.mem_cons_of_mem _)

/-- A write leaves every other key alone. -/
theorem sparseGet_put_ne (m : List (Nat × α)) {k j : Nat} (v : α) (h : j ≠ k) :
    sparseGet d (sparsePut d m k v) j = sparseGet d m j := by
  induction m with
  | nil => simp only [sparsePut]; split <;> simp [sparseGet, h.symm]
  | cons x m ih =>
    simp only [sparsePut]
    split_ifs with h1 h2 h3 h4 <;> simp only [sparseGet]
    · rw [if_neg h.symm]
    · rw [if_neg (by omega)]
    · rw [if_neg h.symm, if_neg (by omega)]
    · rw [ih]

/-- A write keeps the canonical form. -/
theorem sparsePut_wf {m : List (Nat × α)} (hm : SparseWf d m) (k : Nat) (v : α) : SparseWf d (sparsePut d m k v) := by
  refine ⟨?_, fun c hc => ?_⟩
  · obtain ⟨hm, -⟩ := hm
    induction m with
    | nil => simp only [sparsePut]; split <;> simp
    | cons x m ih =>
      simp only [sparsePut]
      split_ifs with h1 h2 h3 h4
      · exact hm
      · exact List.pairwise_cons.2 ⟨fun y hy => by
          rcases List.mem_cons.1 hy with rfl | hy
          · exact h1
          · exact h1.trans (List.rel_of_pairwise_cons hm hy), hm⟩
      · exact hm.of_cons
      · exact List.pairwise_cons.2 ⟨fun y hy => h3 ▸ List.rel_of_pairwise_cons hm hy, hm.of_cons⟩
      · refine List.pairwise_cons.2 ⟨fun y hy => ?_, ih hm.of_cons⟩
        rcases mem_sparsePut hy with ⟨rfl, -⟩ | hy
        · change x.1 < k; omega
        · exact List.rel_of_pairwise_cons hm hy
  · rcases mem_sparsePut hc with ⟨rfl, h⟩ | h
    · exact h
    · exact hm.2 c h

/-- A read after a write to the same key gives the value written. -/
theorem sparseGet_put_self {m : List (Nat × α)} (hm : SparseWf d m) (k : Nat) (v : α) :
    sparseGet d (sparsePut d m k v) k = v := by
  obtain ⟨hm, -⟩ := hm
  induction m with
  | nil => simp only [sparsePut]; split <;> simp_all [sparseGet]
  | cons x m ih =>
    have rest : ∀ c ∈ m, x.1 < c.1 := fun c hc => List.rel_of_pairwise_cons hm hc
    simp only [sparsePut]
    split_ifs with h1 h2 h3 h4
    · rw [h2]; refine sparseGet_of_not_mem fun c hc => ?_
      rcases List.mem_cons.1 hc with rfl | hc
      · omega
      · have := rest c hc; omega
    · simp [sparseGet]
    · rw [h4]; exact sparseGet_of_not_mem fun c hc => by have := rest c hc; omega
    · simp [sparseGet]
    · rw [sparseGet, if_neg (by omega), ih hm.of_cons]

/-- Reading anywhere after a write. -/
theorem sparseGet_put {m : List (Nat × α)} (hm : SparseWf d m) (k : Nat) (v : α) (j : Nat) :
    sparseGet d (sparsePut d m k v) j = if j = k then v else sparseGet d m j := by
  split
  · next h => rw [h, sparseGet_put_self hm]
  · next h => exact sparseGet_put_ne m v h

/-- Writes that keep the keys below a bound. -/
theorem sparsePut_below {m : List (Nat × α)} {n k : Nat} (hm : ∀ c ∈ m, c.1 < n) (hk : k < n) (v : α) :
    ∀ c ∈ sparsePut d m k v, c.1 < n := fun c hc => by
  rcases mem_sparsePut hc with ⟨rfl, -⟩ | h
  · exact hk
  · exact hm c h

end

end Sys2Proof.Machine
end

