-- ==== Sys2Proof/Laws/Memory.lean ====
section
/-! SUPPORT. Addresses as numbers, and what each memory operation leaves at every address; every one of them keeps the
canonical form and the populated range. -/

namespace Sys2Proof.Machine

/-! Addresses. -/

theorem frameBase_toNat (p : Ppn) : (frameBase p).toNat = p.toNat * 4096 := by
  have := p.isLt
  simp only [frameBase, BitVec.toNat_shiftLeft, BitVec.toNat_setWidth, Nat.shiftLeft_eq]
  omega

theorem frameWord_toNat (p : Ppn) : (frameWord p).toNat = p.toNat * 4096 := by
  have := p.isLt
  simp only [frameWord, BitVec.toNat_setWidth, frameBase_toNat]
  omega

theorem entryAt_toNat (p : Ppn) (i : Index) : (entryAt p i).toNat = p.toNat * 4096 + 8 * i.toNat := by
  have := p.isLt
  have := i.isLt
  simp only [entryAt, BitVec.toNat_add, BitVec.toNat_mul, frameBase_toNat, BitVec.toNat_setWidth,
    show (8 : Pa).toNat = 8 from rfl]
  omega

theorem dataAddr_toNat (p : Ppn) (va : Word) : (dataAddr p va).toNat = p.toNat * 4096 + va.toNat % 4096 := by
  have := p.isLt
  simp only [dataAddr, BitVec.toNat_or, frameBase_toNat, BitVec.toNat_setWidth, BitVec.extractLsb'_toNat,
    Nat.shiftRight_zero]
  rw [Nat.mod_eq_of_lt (a := va.toNat % 2 ^ 12) (by omega), show 4096 = 2 ^ 12 by norm_num,
    Nat.mul_comm, ← Nat.two_pow_add_eq_or_of_lt (by omega)]

theorem inPool_iff {last p : Ppn} : inPool last p = true ↔ p.toNat < maxPages last := by
  simp [inPool]

/-- An entry of a populated frame is populated. -/
theorem entryAt_populated {last p : Ppn} (h : inPool last p = true) (i : Index) :
    (entryAt p i).toNat + 8 ≤ poolBytes last := by
  have := i.isLt
  rw [inPool_iff] at h
  simp only [entryAt_toNat, poolBytes, Config.pageSize]
  omega

/-- A byte of a populated frame is populated. -/
theorem dataAddr_populated {last p : Ppn} (h : inPool last p = true) (va : Word) :
    (dataAddr p va).toNat < poolBytes last := by
  rw [inPool_iff] at h
  simp only [dataAddr_toNat, poolBytes, Config.pageSize]
  omega

/-! One byte. -/

theorem memRead1_write1 {m : Memory} (hm : Memory.wf m) (a : Nat) (v : Byte) (b : Nat) :
    memRead1 (memWrite1 m a v) b = if b = a then v else memRead1 m b :=
  sparseGet_put hm a v b

/-- A byte write leaves every other byte alone. -/
theorem memRead1_write1_ne (m : Memory) {a b : Nat} (v : Byte) (h : b ≠ a) :
    memRead1 (memWrite1 m a v) b = memRead1 m b :=
  sparseGet_put_ne m v h

theorem memWrite1_wf {m : Memory} (hm : Memory.wf m) (a : Nat) (v : Byte) : Memory.wf (memWrite1 m a v) :=
  sparsePut_wf hm a v

theorem memWrite1_inside {last : Ppn} {m : Memory} (hm : Memory.inside last m) {a : Nat} (ha : a < poolBytes last)
    (v : Byte) : Memory.inside last (memWrite1 m a v) :=
  sparsePut_below hm ha v

/-! An entry. -/

/-- An entry is its 8 bytes. -/
theorem memRead8_congr {m n : Memory} {a b : Nat} (h : ∀ i < 8, memRead1 m (a + i) = memRead1 n (b + i)) :
    memRead8 m a = memRead8 n b := by
  have h0 := h 0 (by omega)
  simp only [Nat.add_zero] at h0
  simp only [memRead8, h 7 (by omega), h 6 (by omega), h 5 (by omega), h 4 (by omega), h 3 (by omega),
    h 2 (by omega), h 1 (by omega), h0]

/-- An entry write leaves every other byte alone. -/
theorem memRead1_write8_ne (m : Memory) {a b : Nat} (v : Word) (h : b < a ∨ a + 8 ≤ b) :
    memRead1 (memWrite8 m a v) b = memRead1 m b := by
  simp only [memWrite8]
  rw [memRead1_write1_ne _ _ (by omega), memRead1_write1_ne _ _ (by omega), memRead1_write1_ne _ _ (by omega),
    memRead1_write1_ne _ _ (by omega), memRead1_write1_ne _ _ (by omega), memRead1_write1_ne _ _ (by omega),
    memRead1_write1_ne _ _ (by omega), memRead1_write1_ne _ _ (by omega)]

theorem memWrite8_wf {m : Memory} (hm : Memory.wf m) (a : Nat) (v : Word) : Memory.wf (memWrite8 m a v) := by
  simp only [memWrite8]
  exact memWrite1_wf (memWrite1_wf (memWrite1_wf (memWrite1_wf (memWrite1_wf (memWrite1_wf (memWrite1_wf
    (memWrite1_wf hm _ _) _ _) _ _) _ _) _ _) _ _) _ _) _ _

theorem memWrite8_inside {last : Ppn} {m : Memory} (hm : Memory.inside last m) {a : Nat} (ha : a + 8 ≤ poolBytes last)
    (v : Word) : Memory.inside last (memWrite8 m a v) := by
  simp only [memWrite8]
  exact memWrite1_inside (memWrite1_inside (memWrite1_inside (memWrite1_inside (memWrite1_inside (memWrite1_inside
    (memWrite1_inside (memWrite1_inside hm (by omega) _) (by omega) _) (by omega) _) (by omega) _) (by omega) _)
    (by omega) _) (by omega) _) (by omega) _

/-- Byte `i` of an entry just written (little-endian). -/
theorem memRead1_write8 {m : Memory} (hm : Memory.wf m) (a : Nat) (v : Word) {i : Nat} (hi : i < 8) :
    memRead1 (memWrite8 m a v) (a + i) = v.extractLsb' (8 * i) 8 := by
  have w0 := memWrite1_wf hm a (v.extractLsb' 0 8)
  have w1 := memWrite1_wf w0 (a + 1) (v.extractLsb' 8 8)
  have w2 := memWrite1_wf w1 (a + 2) (v.extractLsb' 16 8)
  have w3 := memWrite1_wf w2 (a + 3) (v.extractLsb' 24 8)
  have w4 := memWrite1_wf w3 (a + 4) (v.extractLsb' 32 8)
  have w5 := memWrite1_wf w4 (a + 5) (v.extractLsb' 40 8)
  have w6 := memWrite1_wf w5 (a + 6) (v.extractLsb' 48 8)
  simp only [memWrite8, memRead1_write1 w6, memRead1_write1 w5, memRead1_write1 w4, memRead1_write1 w3,
    memRead1_write1 w2, memRead1_write1 w1, memRead1_write1 w0, memRead1_write1 hm]
  interval_cases i <;> simp

/-- A read of an entry just written gives the entry. -/
theorem memRead8_write8 {m : Memory} (hm : Memory.wf m) (a : Nat) (v : Word) : memRead8 (memWrite8 m a v) a = v := by
  have h0 := memRead1_write8 hm a v (i := 0) (by omega)
  simp only [Nat.add_zero] at h0
  simp only [memRead8, memRead1_write8 hm a v (i := 7) (by omega), memRead1_write8 hm a v (i := 6) (by omega),
    memRead1_write8 hm a v (i := 5) (by omega), memRead1_write8 hm a v (i := 4) (by omega),
    memRead1_write8 hm a v (i := 3) (by omega), memRead1_write8 hm a v (i := 2) (by omega),
    memRead1_write8 hm a v (i := 1) (by omega), h0]
  ext i hi
  simp only [BitVec.getElem_append, BitVec.getElem_extractLsb']
  interval_cases i <;> simp

/-- An entry write leaves an entry that shares no byte with it alone. -/
theorem memRead8_write8_ne (m : Memory) {a b : Nat} (v : Word) (h : b + 8 ≤ a ∨ a + 8 ≤ b) :
    memRead8 (memWrite8 m a v) b = memRead8 m b :=
  memRead8_congr fun i hi => memRead1_write8_ne m v (by omega)

/-! Whole frames. -/

theorem inFrame_iff {f : Ppn} {a : Nat} : inFrame f a = true ↔ a / 4096 = f.toNat := by
  exact decide_eq_true_iff

theorem sparseGet_filter {α : Type} (d : α) (p : Nat → Bool) (m : List (Nat × α)) (k : Nat) :
    sparseGet d (m.filter fun c => p c.1) k = if p k then sparseGet d m k else d := by
  induction m with
  | nil => simp [sparseGet]
  | cons c m ih =>
    by_cases hc : p c.1 <;> by_cases hk : c.1 = k <;> simp_all [sparseGet]

theorem sparseWf_filter {α : Type} {d : α} {m : List (Nat × α)} (hm : SparseWf d m) (p : Nat × α → Bool) :
    SparseWf d (m.filter p) :=
  ⟨hm.1.filter p, fun c hc => hm.2 c (List.mem_of_mem_filter hc)⟩

/-- A zeroed frame reads as 0 and every other byte is as before. -/
theorem memRead1_zeroFrame (m : Memory) (f : Ppn) (a : Nat) :
    memRead1 (zeroFrame m f) a = if inFrame f a then 0 else memRead1 m a := by
  rw [zeroFrame, memRead1, sparseGet_filter (0 : Byte) (fun k => !inFrame f k)]
  cases inFrame f a <;> simp [memRead1]

theorem zeroFrame_wf {m : Memory} (hm : Memory.wf m) (f : Ppn) : Memory.wf (zeroFrame m f) :=
  sparseWf_filter hm _

theorem zeroFrame_inside {last : Ppn} {m : Memory} (hm : Memory.inside last m) (f : Ppn) :
    Memory.inside last (zeroFrame m f) := fun c hc => hm c (List.mem_of_mem_filter hc)

/-- The writes of `copyFrame`: what they leave at each address. -/
theorem memRead1_copyCells {src dst : Nat} {l : Memory} (hl : l.Pairwise (fun x y => x.1 < y.1))
    (hs : ∀ c ∈ l, c.1 / 4096 = src) {acc : Memory} (ha : Memory.wf acc) (a : Nat) :
    memRead1 (l.foldl (fun acc c => memWrite1 acc (dst * 4096 + c.1 % 4096) c.2) acc) a =
      if a / 4096 = dst ∧ ∃ c ∈ l, c.1 = src * 4096 + a % 4096 then sparseGet 0 l (src * 4096 + a % 4096)
      else memRead1 acc a := by
  induction l generalizing acc with
  | nil => simp
  | cons c l ih =>
    have hc := hs c (by simp)
    have rest : ∀ x ∈ l, c.1 < x.1 := fun x hx => List.rel_of_pairwise_cons hl hx
    rw [List.foldl_cons, ih hl.of_cons (fun x hx => hs x (List.mem_cons_of_mem _ hx)) (memWrite1_wf ha _ _),
      memRead1_write1 ha]
    by_cases hd : a / 4096 = dst
    · by_cases hk : c.1 = src * 4096 + a % 4096
      · have no : ¬∃ x ∈ l, x.1 = src * 4096 + a % 4096 := by
          rintro ⟨x, hx, e⟩; have := rest x hx; omega
        rw [if_neg fun h => no h.2, if_pos (by omega), if_pos ⟨hd, c, by simp, hk⟩, sparseGet, if_pos hk]
      · have : a ≠ dst * 4096 + c.1 % 4096 := by omega
        simp [hd, hk, this, sparseGet]
    · have : a ≠ dst * 4096 + c.1 % 4096 := by omega
      simp [hd, this]

/-- A copied frame holds the bytes of the source; every other byte is as before. -/
theorem memRead1_copyFrame {m : Memory} (hm : Memory.wf m) (dst src : Ppn) (a : Nat) :
    memRead1 (copyFrame m dst src) a =
      if inFrame dst a then memRead1 m (src.toNat * 4096 + a % 4096) else memRead1 m a := by
  have hf := sparseWf_filter hm (fun c => inFrame src c.1)
  have src_get : sparseGet (0 : Byte) (m.filter fun c => inFrame src c.1) (src.toNat * 4096 + a % 4096)
      = memRead1 m (src.toNat * 4096 + a % 4096) := by
    rw [sparseGet_filter (0 : Byte) (fun k => inFrame src k), if_pos (by rw [inFrame_iff]; omega), memRead1]
  have := memRead1_copyCells (src := src.toNat) (dst := dst.toNat) hf.1
    (fun c hc => inFrame_iff.1 (by simpa using (List.mem_filter.1 hc).2)) (zeroFrame_wf hm dst) a
  rw [copyFrame, Config.pageSize, this, src_get, memRead1_zeroFrame]
  by_cases hd : a / 4096 = dst.toNat
  · rw [if_pos (inFrame_iff.2 hd), if_pos (inFrame_iff.2 hd)]
    split_ifs with h
    · rfl
    · rw [← src_get, sparseGet_of_not_mem]
      exact fun c hc e => h ⟨hd, c, hc, e⟩
  · rw [if_neg (by tauto), if_neg (by rw [inFrame_iff]; exact hd), if_neg (by rw [inFrame_iff]; exact hd)]

theorem foldl_memWrite1_wf {f : Host.Cell → Nat} {l acc : Memory} (ha : Memory.wf acc) :
    Memory.wf (l.foldl (fun acc c => memWrite1 acc (f c) c.2) acc) := by
  induction l generalizing acc with
  | nil => exact ha
  | cons c l ih => exact ih (memWrite1_wf ha _ _)

theorem foldl_memWrite1_inside {last : Ppn} {f : Host.Cell → Nat} {l acc : Memory} (hf : ∀ c, f c < poolBytes last)
    (ha : Memory.inside last acc) :
    Memory.inside last (l.foldl (fun acc c => memWrite1 acc (f c) c.2) acc) := by
  induction l generalizing acc with
  | nil => exact ha
  | cons c l ih => exact ih (memWrite1_inside ha (hf c) _)

theorem copyFrame_wf {m : Memory} (hm : Memory.wf m) (dst src : Ppn) : Memory.wf (copyFrame m dst src) :=
  foldl_memWrite1_wf (zeroFrame_wf hm dst)

theorem copyFrame_inside {last : Ppn} {m : Memory} (hm : Memory.inside last m) {dst : Ppn}
    (hd : inPool last dst = true) (src : Ppn) : Memory.inside last (copyFrame m dst src) :=
  foldl_memWrite1_inside (fun c => by
    rw [inPool_iff] at hd
    simp only [Config.pageSize, poolBytes]
    omega) (zeroFrame_inside hm dst)

end Sys2Proof.Machine
end

