-- ==== Sys2Proof/Laws/Pool.lean ====
section
/-! SUPPORT. What the environment procedures and the handlers can do: one lemma per operation, and the general lemma
about the forks that every claim about them goes through. -/

namespace Sys2Proof.Machine

/-- A stop with a reason: an abort's reason is not `NONE` (60_exceptions.md R215). -/
def Stop.Named : Stop → Prop
  | .terminate _ => True
  | .abort r => r ≠ .none

/-- Whatever the procedure answers, the pool it leaves satisfies `P`, a value it gives satisfies `Q`, and a stop has a
reason. -/
def PoolResult.Sat {α : Type} (P : Pool → Prop) (Q : α → Prop) : PoolResult α → Prop
  | .ok v p => P p ∧ Q v
  | .stop w p => P p ∧ w.Named
  | .fault _ => True

@[simp] theorem PoolResult.ok_andThen {α β : Type} (v : α) (p : Pool) (k : α → Pool → PoolResult β) :
    (PoolResult.ok v p).andThen k = k v p := rfl

@[simp] theorem PoolResult.stop_andThen {α β : Type} (w : Stop) (p : Pool) (k : α → Pool → PoolResult β) :
    (PoolResult.stop w p).andThen k = .stop w p := rfl

@[simp] theorem PoolResult.fault_andThen {α β : Type} (f : Fault) (k : α → Pool → PoolResult β) :
    (PoolResult.fault f).andThen k = .fault f := rfl

theorem PoolResult.Sat.andThen {α β : Type} {P : Pool → Prop} {Q : α → Prop} {R : β → Prop} {r : PoolResult α}
    {k : α → Pool → PoolResult β} (hr : r.Sat P Q) (hk : ∀ v p, P p → Q v → (k v p).Sat P R) :
    (r.andThen k).Sat P R := by
  cases r with
  | ok v p => exact hk v p hr.1 hr.2
  | stop w p => exact hr
  | fault f => trivial

theorem PoolResult.Sat.mono {α : Type} {P P' : Pool → Prop} {Q Q' : α → Prop} {r : PoolResult α} (hr : r.Sat P Q)
    (hp : ∀ p, P p → P' p) (hq : ∀ v, Q v → Q' v) : r.Sat P' Q' := by
  cases r with
  | ok v p => exact ⟨hp _ hr.1, hq _ hr.2⟩
  | stop w p => exact ⟨hp _ hr.1, hr.2⟩
  | fault f => trivial

/-! The allocation set. -/

theorem mem_setInsert {xs : List Nat} {k x : Nat} : x ∈ setInsert xs k ↔ x = k ∨ x ∈ xs := by
  induction xs with
  | nil => simp [setInsert]
  | cons y ys ih =>
    simp only [setInsert]
    split_ifs with h1 h2
    · simp
    · subst h2; simp
    · simp only [List.mem_cons, ih]; tauto

theorem setInsert_sorted {xs : List Nat} (h : xs.Pairwise (· < ·)) (k : Nat) : (setInsert xs k).Pairwise (· < ·) := by
  induction xs with
  | nil => simp [setInsert]
  | cons y ys ih =>
    simp only [setInsert]
    split_ifs with h1 h2
    · refine List.pairwise_cons.2 ⟨fun z hz => ?_, h⟩
      rcases List.mem_cons.1 hz with rfl | hz
      · exact h1
      · exact h1.trans (List.rel_of_pairwise_cons h hz)
    · exact h
    · refine List.pairwise_cons.2 ⟨fun z hz => ?_, ih h.of_cons⟩
      rcases mem_setInsert.1 hz with rfl | hz
      · omega
      · exact List.rel_of_pairwise_cons h hz

theorem length_setInsert {xs : List Nat} {k : Nat} (h : k ∉ xs) : (setInsert xs k).length = xs.length + 1 := by
  induction xs with
  | nil => simp [setInsert]
  | cons y ys ih =>
    simp only [List.mem_cons, not_or] at h
    simp only [setInsert]
    split_ifs
    · simp
    · exact absurd ‹k = y› h.1
    · simp [ih h.2]

theorem mem_setErase {xs : List Nat} {k x : Nat} : x ∈ setErase xs k ↔ x ≠ k ∧ x ∈ xs := by
  simp [setErase, and_comm]

theorem setErase_sorted {xs : List Nat} (h : xs.Pairwise (· < ·)) (k : Nat) : (setErase xs k).Pairwise (· < ·) :=
  h.filter _

theorem length_setErase {xs : List Nat} (h : xs.Pairwise (· < ·)) {k : Nat} (hk : k ∈ xs) :
    (setErase xs k).length = xs.length - 1 := by
  have nd : xs.Nodup := h.imp fun {a b} hab => by omega
  have : setErase xs k = xs.erase k := by
    rw [List.Nodup.erase_eq_filter nd]
    exact List.filter_congr fun x _ => by by_cases hx : x = k <;> simp [hx]
  rw [this, List.length_erase_of_mem hk]

/-- "the least PPN in 0 .. MAX_PAGES-1 that is not in ALLOC" (40_frame_pool_env.md R111). -/
theorem leastFree_some {last f : Ppn} {xs : List Nat} (h : leastFree last xs = some f) :
    f.toNat < maxPages last ∧ f.toNat ∉ xs ∧ ∀ k < f.toNat, k ∈ xs := by
  simp only [leastFree] at h
  split at h
  · next k hk =>
    split_ifs at h with hl
    obtain ⟨hp, i, hi, rfl, hall⟩ := List.find?_eq_some_iff_getElem.1 hk
    have e : f.toNat = i := by
      have := last.isLt
      have := congrArg (Option.map BitVec.toNat) h
      simp only [Option.map_some, BitVec.toNat_ofNat, List.getElem_range, Option.some.injEq] at this hl
      simp only [maxPages] at hl
      omega
    simp only [List.getElem_range] at hp hl
    refine ⟨e ▸ hl, by simpa [e] using hp, fun k hk' => ?_⟩
    have := hall k (by omega)
    simpa using this
  · simp at h

theorem leastFree_none {last : Ppn} {xs : List Nat} (h : leastFree last xs = none) : ∀ k < maxPages last, k ∈ xs := by
  intro k hk
  by_contra hkx
  simp only [leastFree] at h
  split at h
  · next j hj =>
    split_ifs at h with hl
    obtain ⟨hp, i, hi, rfl, hall⟩ := List.find?_eq_some_iff_getElem.1 hj
    simp only [List.getElem_range] at hp hl
    have := hall k (by omega)
    simp at this
    exact hkx this
  · next hj =>
    simp only [List.find?_eq_none, List.mem_range] at hj
    have hsub : List.range (xs.length + 1) ⊆ xs := fun j hj' => by simpa using hj j (List.mem_range.1 hj')
    have := (List.subperm_of_subset List.nodup_range hsub).length_le
    simp at this

/-- All that `alloc()` can do (40_frame_pool_env.md R111). -/
theorem allocFrame_cases (last : Ppn) (p : Pool) :
    (∃ f : Ppn, allocFrame last p = .ok f { p with allocSet := setInsert p.allocSet f.toNat, live := p.live + 1 }
      ∧ p.live ≠ maxPages last ∧ f.toNat < maxPages last ∧ f.toNat ∉ p.allocSet ∧ ∀ k < f.toNat, k ∈ p.allocSet)
    ∨ (allocFrame last p = .stop (.terminate .outOfMemory) p
      ∧ (p.live = maxPages last ∨ ∀ k < maxPages last, k ∈ p.allocSet)) := by
  simp only [allocFrame]
  split_ifs with h
  · exact .inr ⟨rfl, .inl h⟩
  · cases hf : leastFree last p.allocSet with
    | none => exact .inr ⟨rfl, .inr (leastFree_none hf)⟩
    | some f => exact .inl ⟨f, rfl, h, leastFree_some hf⟩

/-- What `alloc()` keeps, for a property of the pool that the growth of the allocation set keeps. -/
theorem allocFrame_sat {last : Ppn} {P : Pool → Prop} {Q : Ppn → Prop} {p : Pool} (hp : P p)
    (h : ∀ f : Ppn, f.toNat < maxPages last → f.toNat ∉ p.allocSet →
      P { p with allocSet := setInsert p.allocSet f.toNat, live := p.live + 1 } ∧ Q f) :
    (allocFrame last p).Sat P Q := by
  rcases allocFrame_cases last p with ⟨f, e, -, hf, hn, -⟩ | ⟨e, -⟩
  · rw [e]; exact h f hf hn
  · rw [e]; exact ⟨hp, trivial⟩

/-- All that a frame operand can be (30_encoding.md R90). -/
theorem frameOperand_ok {last f : Ppn} {a : Word} (h : frameOperand last a = .ok f) :
    a.extractLsb' 0 12 = 0 ∧ f.toNat = a.toNat / 4096 ∧ f.toNat < maxPages last := by
  have := last.isLt
  simp only [frameOperand, poolPpnOperand] at h
  split_ifs at h with h1 h2
  simp only [Except.ok.injEq] at h
  subst h
  simp only [maxPages, BitVec.toNat_ushiftRight, Nat.shiftRight_eq_div_pow, BitVec.toNat_setWidth] at h2 ⊢
  exact ⟨h1, by omega, by omega⟩

/-- The reasons of a frame operand's check. -/
theorem frameOperand_error {last : Ppn} {a : Word} {r : AbortReason} (h : frameOperand last a = .error r) :
    (r = .misalignedFrame ∧ a.extractLsb' 0 12 ≠ 0) ∨
      (r = .frameRange ∧ a.extractLsb' 0 12 = 0 ∧ maxPages last ≤ a.toNat / 4096) := by
  simp only [frameOperand, poolPpnOperand] at h
  split_ifs at h with h1 h2
  · refine .inr ⟨(Except.error.inj h).symm, h1, ?_⟩
    simpa only [BitVec.toNat_ushiftRight, Nat.shiftRight_eq_div_pow, not_lt] using h2
  · exact .inl ⟨(Except.error.inj h).symm, h1⟩

/-- A pool in canonical form with a frame allocated. -/
theorem Pool.Ok.alloc {last : Ppn} {p : Pool} (h : p.Ok last) {f : Ppn} (hf : f.toNat < maxPages last) (n : Nat) :
    Pool.Ok last { p with allocSet := setInsert p.allocSet f.toNat, live := n } :=
  { h with
    allocSorted := setInsert_sorted h.allocSorted _
    allocInside := fun x hx => by
      rcases mem_setInsert.1 hx with rfl | hx
      · exact hf
      · exact h.allocInside x hx }

/-- A pool in canonical form with other contents of memory in canonical form. -/
theorem Pool.Ok.withMem {last : Ppn} {p : Pool} (h : p.Ok last) {m : Memory} (hw : Memory.wf m)
    (hi : Memory.inside last m) : Pool.Ok last { p with mem := m } :=
  { h with memWf := hw, memInside := hi }

theorem Pool.Ok.write8 {last : Ppn} {p : Pool} (h : p.Ok last) {a : Nat} (ha : a + 8 ≤ poolBytes last) (v : Word) :
    Pool.Ok last { p with mem := memWrite8 p.mem a v } :=
  h.withMem (memWrite8_wf h.memWf a v) (memWrite8_inside h.memInside ha v)

theorem Pool.Ok.write1 {last : Ppn} {p : Pool} (h : p.Ok last) {a : Nat} (ha : a < poolBytes last) (v : Byte) :
    Pool.Ok last { p with mem := memWrite1 p.mem a v } :=
  h.withMem (memWrite1_wf h.memWf a v) (memWrite1_inside h.memInside ha v)

theorem Pool.Ok.refcount {last : Ppn} {p : Pool} (h : p.Ok last) {f : Ppn} (hf : f.toNat < maxPages last) (n : Nat) :
    Pool.Ok last (setRefcnt p f n) :=
  { h with
    refcntWf := sparsePut_wf h.refcntWf _ _
    refcntInside := sparsePut_below h.refcntInside hf n }

theorem Pool.Ok.copy {last : Ppn} {p : Pool} (h : p.Ok last) {dst : Ppn} (hd : inPool last dst = true) (src : Ppn) :
    Pool.Ok last { p with mem := copyFrame p.mem dst src } :=
  h.withMem (copyFrame_wf h.memWf dst src) (copyFrame_inside h.memInside hd src)

theorem refcntOf_setRefcnt {last : Ppn} {p : Pool} (h : p.Ok last) (f g : Ppn) (n : Nat) :
    refcntOf (setRefcnt p f n) g = if g = f then n else refcntOf p g := by
  rw [refcntOf, setRefcnt, sparseGet_put h.refcntWf]
  by_cases e : g = f
  · simp [e]
  · rw [if_neg e, if_neg (fun e' => e (BitVec.eq_of_toNat_eq e'))]; rfl

/-! The procedures keep the canonical form. -/

theorem allocFrame_ok {last : Ppn} {p : Pool} (h : p.Ok last) :
    (allocFrame last p).Sat (Pool.Ok last) (fun f => inPool last f = true) :=
  allocFrame_sat h fun _ hf _ => ⟨h.alloc hf _, inPool_iff.2 hf⟩

theorem freeFrame_ok {last : Ppn} {p : Pool} (h : p.Ok last) (frame : Word) :
    (freeFrame last frame p).Sat (Pool.Ok last) (fun _ => True) := by
  simp only [freeFrame]
  split
  · next r e =>
    refine ⟨h, ?_⟩
    rcases frameOperand_error e with ⟨rfl, -⟩ | ⟨rfl, -⟩ <;> simp [Stop.Named]
  · split_ifs
    · exact ⟨{ h with
        memWf := zeroFrame_wf h.memWf _
        memInside := zeroFrame_inside h.memInside _
        allocSorted := setErase_sorted h.allocSorted _
        allocInside := fun x hx => h.allocInside x (mem_setErase.1 hx).2 }, trivial⟩
    · exact ⟨h, by simp [Stop.Named]⟩

theorem frameOf_sat {last : Ppn} {P : Pool → Prop} {p : Pool} (hp : P p) (e : Word) :
    (frameOf last e p).Sat P (fun f => f = getPpn e ∧ inPool last f = true) := by
  simp only [frameOf]
  split_ifs with h
  · exact ⟨hp, rfl, h⟩
  · exact ⟨hp, by simp [Stop.Named]⟩

theorem envAction_ok {last : Ppn} {p : Pool} (h : p.Ok last) (a : EnvAction) :
    (envAction last p a).Sat (Pool.Ok last) (fun _ => True) := by
  cases a with
  | init => exact ⟨h, trivial⟩
  | alloc => exact (allocFrame_ok h).andThen fun _ _ hq _ => ⟨hq, trivial⟩
  | free frame => exact (freeFrame_ok h frame).andThen fun _ _ hq _ => ⟨hq, trivial⟩
  | usedCount => exact ⟨h, trivial⟩
  | memRead1 a => simp only [envAction]; split_ifs <;> simp [PoolResult.Sat, h]
  | memRead8 a => simp only [envAction]; split_ifs <;> simp [PoolResult.Sat, h]
  | memWrite1 a v =>
    simp only [envAction, populated, decide_eq_true_eq]
    split_ifs with hp
    · exact ⟨h.write1 (by omega) v, trivial⟩
    · trivial
  | memWrite8 a v =>
    simp only [envAction, populated, decide_eq_true_eq]
    split_ifs with hp
    · exact ⟨h.write8 hp v, trivial⟩
    · trivial
  | writeAlloc f b =>
    simp only [envAction, inPool_iff]
    split_ifs with hp hb
    · exact ⟨h.alloc hp _, trivial⟩
    · exact ⟨{ h with
        allocSorted := setErase_sorted h.allocSorted _
        allocInside := fun x hx => h.allocInside x (mem_setErase.1 hx).2 }, trivial⟩
    · trivial
  | writeLive n => exact ⟨{ h with }, trivial⟩
  | writeRefcnt f n =>
    simp only [envAction, inPool_iff]
    split_ifs with hp
    · exact ⟨h.refcount hp n, trivial⟩
    · trivial

/-- What a fork keeps. `D` is what is known of a frame the fork allocates: a property `P` of the pool that allocation,
writes into such frames and the leaf rule keep holds of whatever the fork answers. -/
theorem forkTable_sat {last : Ppn} {leaf : Pa → Word → Pool → PoolResult Word} {P : Pool → Prop} {D : Ppn → Prop}
    (halloc : ∀ p, P p → (allocFrame last p).Sat P D)
    (hwrite : ∀ p dst (i : Index) e, P p → D dst → P { p with mem := memWrite8 p.mem (entryAt dst i).toNat e })
    (hleaf : ∀ src (i : Index) e p, P p → inPool last src = true → (leaf (entryAt src i) e p).Sat P (fun _ => True)) :
    ∀ l path src p, P p → inPool last src = true → (forkTable last leaf l path src p).Sat P D := by
  have loop : ∀ (visit : Pa → Word → Pool → PoolResult Word) (src dst : Ppn), D dst →
      (∀ (i : Index) e p, P p → (visit (entryAt src i) e p).Sat P (fun _ => True)) →
      ∀ n p, P p → (forkEntries visit src dst n p).Sat P (fun _ => True) := by
    intro visit src dst hd hv n
    induction n with
    | zero => exact fun p hp => ⟨hp, trivial⟩
    | succ n ih =>
      intro p hp
      simp only [forkEntries]
      refine PoolResult.Sat.andThen (Q := fun _ => True) ?_ fun e q hq _ => ih _ (hwrite q dst _ e hq hd)
      split_ifs
      · exact hv _ _ _ hp
      · exact ⟨hp, trivial⟩
  intro l
  induction l with
  | zero =>
    intro path src p hp hs
    refine (halloc p hp).andThen fun dst q hq hd => ?_
    exact (loop leaf src dst hd (fun i e p hp => hleaf src i e p hp hs) 512 q hq).andThen fun _ r hr _ => ⟨hr, hd⟩
  | succ l ih =>
    intro path src p hp hs
    refine (halloc p hp).andThen fun dst q hq hd => ?_
    refine (loop _ src dst hd (fun i e p hp => ?_) 512 q hq).andThen fun _ r hr _ => ⟨hr, hd⟩
    refine (frameOf_sat hp e).andThen fun f q hq hf => ?_
    split_ifs
    · trivial
    · exact (ih (src :: path) f q hq hf.2).andThen fun c r hr _ => ⟨hr, trivial⟩

theorem forkTree_sat {last : Ppn} {leaf : Pa → Word → Pool → PoolResult Word} {P : Pool → Prop} {D : Ppn → Prop}
    (halloc : ∀ p, P p → (allocFrame last p).Sat P D)
    (hwrite : ∀ p dst (i : Index) e, P p → D dst → P { p with mem := memWrite8 p.mem (entryAt dst i).toNat e })
    (hleaf : ∀ src (i : Index) e p, P p → inPool last src = true → (leaf (entryAt src i) e p).Sat P (fun _ => True))
    {p : Pool} (hp : P p) (rootSet : Bool) (root : Ppn) :
    (forkTree last leaf rootSet root p).Sat P D := by
  simp only [forkTree]
  split_ifs with h1 h2 h3
  · exact forkTable_sat halloc hwrite hleaf 2 [] root p hp h3
  · exact ⟨hp, by simp [Stop.Named]⟩
  · exact ⟨hp, by simp [Stop.Named]⟩
  · exact ⟨hp, trivial⟩

theorem forkCopy_ok {last : Ppn} {p : Pool} (h : p.Ok last) (rootSet : Bool) (root : Ppn) :
    (forkCopy last rootSet root p).Sat (Pool.Ok last) (fun f => inPool last f = true) := by
  refine forkTree_sat (fun _ => allocFrame_ok) (fun p dst i e hp hd => hp.write8 (entryAt_populated hd i) e) ?_ h _ _
  intro src i e p hp _
  refine (allocFrame_ok hp).andThen fun c q hq hc => ?_
  exact (frameOf_sat hq e).andThen fun f r hr _ => ⟨hr.copy hc f, trivial⟩

theorem forkCopyOnWrite_ok {last : Ppn} {p : Pool} (h : p.Ok last) (rootSet : Bool) (root : Ppn) :
    (forkCopyOnWrite last rootSet root p).Sat (Pool.Ok last) (fun f => inPool last f = true) := by
  refine forkTree_sat (fun _ => allocFrame_ok) (fun p dst i e hp hd => hp.write8 (entryAt_populated hd i) e) ?_ h _ _
  intro src i e p hp hs
  simp only [shareLeaf]
  split_ifs
  · exact (frameOf_sat (hp.write8 (entryAt_populated hs i) _) _).andThen fun f r hr hf =>
      ⟨hr.refcount (inPool_iff.1 hf.2) _, trivial⟩
  · exact ⟨hp, trivial⟩

/-- A host that ends the process leaves the pool as it is. -/
theorem endProcess_ok {last : Ppn} {p : Pool} (h : p.Ok last) (c : TermCause) :
    (endProcess c p).Sat (Pool.Ok last) (fun _ => True) :=
  ⟨h, trivial⟩

/-! The handlers. -/

/-- Whatever a handler's turn comes to, the pool it leaves satisfies `P`, and an abort has a reason. -/
def HandlerResult.Sat (P : Pool → Prop) : HandlerResult → Prop
  | .completes _ p => P p
  | .aborts r p => P p ∧ r ≠ .none
  | .stuck _ => True

theorem HandlerResult.sat_ofStop {P : Pool → Prop} {w : Stop} {p : Pool} (h : P p ∧ w.Named) :
    (HandlerResult.ofStop w p).Sat P := by
  cases w with
  | terminate c => exact h.1
  | abort r => exact h

theorem cowCopy_sat {last : Ppn} {P : Pool → Prop} {ea : Nat} {e : Word} {p : Pool} (hp : P p)
    (h : ∀ f : Ppn, f.toNat < maxPages last → f.toNat ∉ p.allocSet →
      P (setRefcnt
        { p with
          allocSet := setInsert p.allocSet f.toNat
          live := p.live + 1
          mem := memWrite8 (copyFrame p.mem f (getPpn e)) ea (clearDeferred (setWrite (setPpn e f))) }
        (getPpn e) (refcntOf p (getPpn e) - 1))) :
    (cowCopy last ea e p).Sat P := by
  simp only [cowCopy]
  rcases allocFrame_cases last p with ⟨f, eq, -, hf, hn, -⟩ | ⟨eq, -⟩
  · rw [eq]; exact h f hf hn
  · rw [eq]; exact hp

/-- All that `cow_handler` can do to the pool (44_fork_cow_env.md R193): nothing, grant the write bit of a sole
owner's marked leaf, or give the tree a copy of its own. -/
theorem cowHandler_sat {last : Ppn} {P : Pool → Prop} {r : FaultRequest} {p : Pool} (hp : P p)
    (grant : cowEntryAddr r + 8 ≤ poolBytes last → ∀ e : Word,
      P { p with mem := memWrite8 p.mem (cowEntryAddr r) e })
    (copy : cowEntryAddr r + 8 ≤ poolBytes last → inPool last (getPpn (memRead8 p.mem (cowEntryAddr r))) = true →
      (cowCopy last (cowEntryAddr r) (memRead8 p.mem (cowEntryAddr r)) p).Sat P) :
    (cowHandler last r p).Sat P := by
  unfold cowHandler
  cases r.level
  · dsimp only
    by_cases hq : populated last (cowEntryAddr r) 8 = true
    · rw [if_pos hq]
      rw [populated, decide_eq_true_eq] at hq
      by_cases hv : (!getValid (memRead8 p.mem (cowEntryAddr r))) = true
      · rw [if_pos hv]; exact hp
      · rw [if_neg hv]
        by_cases hi : (!inPool last (getPpn (memRead8 p.mem (cowEntryAddr r)))) = true
        · rw [if_pos hi]; exact hp
        · rw [if_neg hi]
          split
          · exact hp
          · split_ifs
            · exact grant hq _
            · exact hp
          · exact copy hq (by simpa using hi)
    · rw [if_neg hq]; trivial
  · exact hp
  · exact hp

theorem cowHandler_ok {last : Ppn} {p : Pool} (h : p.Ok last) (r : FaultRequest) :
    (cowHandler last r p).Sat (Pool.Ok last) := by
  refine cowHandler_sat h (fun hq e => h.write8 hq e) fun hq hi => cowCopy_sat h fun f hf _ => ?_
  exact (((h.alloc hf (p.live + 1)).copy (inPool_iff.2 hf) _).write8 hq _).refcount (inPool_iff.1 hi) _

theorem cowCopy_ends (last : Ppn) (ea : Nat) (e : Word) (p : Pool) (f : Fault) : cowCopy last ea e p ≠ .stuck f := by
  simp only [cowCopy]
  rcases allocFrame_cases last p with ⟨g, eq, -⟩ | ⟨eq, -⟩ <;> rw [eq] <;> simp [HandlerResult.ofStop]

/-- The COW handler's turn ends on every call whose entry is populated. -/
theorem cowHandler_ends {last : Ppn} {r : FaultRequest} (h : cowEntryAddr r + 8 ≤ poolBytes last) (p : Pool) (f : Fault) :
    cowHandler last r p ≠ .stuck f := by
  unfold cowHandler
  cases r.level
  · simp only [populated, decide_eq_true h, if_true]
    split_ifs <;> first | (intro e; cases e) | (split <;> first | exact cowCopy_ends _ _ _ _ _ | (intro e; cases e))
  · intro e; cases e
  · intro e; cases e

theorem agentActions_ok {last : Ppn} (as : List AgentAction) {p : Pool} (h : p.Ok last) :
    (agentActions last as p).Sat (Pool.Ok last) (fun _ => True) := by
  induction as generalizing p with
  | nil => exact ⟨h, trivial⟩
  | cons a as ih =>
    cases a with
    | env a => exact (envAction_ok h a).andThen fun _ _ hq _ => ih hq
    | request r => trivial

theorem handlerTurn_ok {s : State} (h : s.pool.Ok s.lastPpn) (r : FaultRequest) :
    (handlerTurn s r).Sat (Pool.Ok s.lastPpn) := by
  simp only [handlerTurn]
  split
  · exact h
  · exact cowHandler_ok h r
  · split
    · trivial
    · next t _ _ =>
      have := agentActions_ok t.actions h
      simp only [agentHandler]
      split
      · next q e =>
        rw [e] at this
        split
        · exact this.1
        · trivial
      · next w q e =>
        rw [e] at this
        exact HandlerResult.sat_ofStop this
      · trivial

end Sys2Proof.Machine
end

