-- ==== Sys2Proof/Laws/State.lean ====
section
/-! SUPPORT. Each update of the state, field by field: what it writes and what it leaves. -/

namespace Sys2Proof.Machine

@[simp] theorem respond_root (r : Word) (s : State) : (respond r s).root = s.root := rfl
@[simp] theorem respond_rootSet (r : Word) (s : State) : (respond r s).rootSet = s.rootSet := rfl
@[simp] theorem respond_phase (r : Word) (s : State) : (respond r s).phase = .idle := rfl
@[simp] theorem respond_opc (r : Word) (s : State) : (respond r s).opc = s.opc := rfl
@[simp] theorem respond_va (r : Word) (s : State) : (respond r s).va = s.va := rfl
@[simp] theorem respond_wdata (r : Word) (s : State) : (respond r s).wdata = s.wdata := rfl
@[simp] theorem respond_level (r : Word) (s : State) : (respond r s).level = s.level := rfl
@[simp] theorem respond_table (r : Word) (s : State) : (respond r s).table = s.table := rfl
@[simp] theorem respond_eaddr (r : Word) (s : State) : (respond r s).eaddr = s.eaddr := rfl
@[simp] theorem respond_entry (r : Word) (s : State) : (respond r s).entry = s.entry := rfl
@[simp] theorem respond_faulted (r : Word) (s : State) : (respond r s).faulted = s.faulted := rfl
@[simp] theorem respond_fatal (r : Word) (s : State) : (respond r s).fatal = s.fatal := rfl
@[simp] theorem respond_cause (r : Word) (s : State) : (respond r s).cause = s.cause := rfl
@[simp] theorem respond_abortReason (r : Word) (s : State) : (respond r s).abortReason = s.abortReason := rfl
@[simp] theorem respond_diagValid (r : Word) (s : State) : (respond r s).diagValid = s.diagValid := rfl
@[simp] theorem respond_diagVa (r : Word) (s : State) : (respond r s).diagVa = s.diagVa := rfl
@[simp] theorem respond_diagLevel (r : Word) (s : State) : (respond r s).diagLevel = s.diagLevel := rfl
@[simp] theorem respond_diagPpn (r : Word) (s : State) : (respond r s).diagPpn = s.diagPpn := rfl
@[simp] theorem respond_diagFlags (r : Word) (s : State) : (respond r s).diagFlags = s.diagFlags := rfl
@[simp] theorem respond_pool (r : Word) (s : State) : (respond r s).pool = s.pool := rfl
@[simp] theorem respond_lastPpn (r : Word) (s : State) : (respond r s).lastPpn = s.lastPpn := rfl
@[simp] theorem respond_handler (r : Word) (s : State) : (respond r s).handler = s.handler := rfl
@[simp] theorem respond_agentTurns (r : Word) (s : State) : (respond r s).agentTurns = s.agentTurns := rfl
@[simp] theorem respond_hostQueue (r : Word) (s : State) : (respond r s).hostQueue = s.hostQueue := rfl
@[simp] theorem respond_rsp (r : Word) (s : State) : (respond r s).rsp = some r := rfl
@[simp] theorem respond_events (r : Word) (s : State) : (respond r s).events = s.events := rfl
@[simp] theorem respond_hostVal (r : Word) (s : State) : (respond r s).hostVal = s.hostVal := rfl

@[simp] theorem note_root (e : Event) (s : State) : (note e s).root = s.root := rfl
@[simp] theorem note_rootSet (e : Event) (s : State) : (note e s).rootSet = s.rootSet := rfl
@[simp] theorem note_phase (e : Event) (s : State) : (note e s).phase = s.phase := rfl
@[simp] theorem note_opc (e : Event) (s : State) : (note e s).opc = s.opc := rfl
@[simp] theorem note_va (e : Event) (s : State) : (note e s).va = s.va := rfl
@[simp] theorem note_wdata (e : Event) (s : State) : (note e s).wdata = s.wdata := rfl
@[simp] theorem note_level (e : Event) (s : State) : (note e s).level = s.level := rfl
@[simp] theorem note_table (e : Event) (s : State) : (note e s).table = s.table := rfl
@[simp] theorem note_eaddr (e : Event) (s : State) : (note e s).eaddr = s.eaddr := rfl
@[simp] theorem note_entry (e : Event) (s : State) : (note e s).entry = s.entry := rfl
@[simp] theorem note_faulted (e : Event) (s : State) : (note e s).faulted = s.faulted := rfl
@[simp] theorem note_fatal (e : Event) (s : State) : (note e s).fatal = s.fatal := rfl
@[simp] theorem note_cause (e : Event) (s : State) : (note e s).cause = s.cause := rfl
@[simp] theorem note_abortReason (e : Event) (s : State) : (note e s).abortReason = s.abortReason := rfl
@[simp] theorem note_diagValid (e : Event) (s : State) : (note e s).diagValid = s.diagValid := rfl
@[simp] theorem note_diagVa (e : Event) (s : State) : (note e s).diagVa = s.diagVa := rfl
@[simp] theorem note_diagLevel (e : Event) (s : State) : (note e s).diagLevel = s.diagLevel := rfl
@[simp] theorem note_diagPpn (e : Event) (s : State) : (note e s).diagPpn = s.diagPpn := rfl
@[simp] theorem note_diagFlags (e : Event) (s : State) : (note e s).diagFlags = s.diagFlags := rfl
@[simp] theorem note_pool (e : Event) (s : State) : (note e s).pool = s.pool := rfl
@[simp] theorem note_lastPpn (e : Event) (s : State) : (note e s).lastPpn = s.lastPpn := rfl
@[simp] theorem note_handler (e : Event) (s : State) : (note e s).handler = s.handler := rfl
@[simp] theorem note_agentTurns (e : Event) (s : State) : (note e s).agentTurns = s.agentTurns := rfl
@[simp] theorem note_hostQueue (e : Event) (s : State) : (note e s).hostQueue = s.hostQueue := rfl
@[simp] theorem note_rsp (e : Event) (s : State) : (note e s).rsp = s.rsp := rfl
@[simp] theorem note_events (e : Event) (s : State) : (note e s).events = s.events ++ [e] := rfl
@[simp] theorem note_hostVal (e : Event) (s : State) : (note e s).hostVal = s.hostVal := rfl

@[simp] theorem raiseFatal_root (va : Word) (l : Level) (e : Word) (s : State) : (raiseFatal va l e s).root = s.root := rfl
@[simp] theorem raiseFatal_rootSet (va : Word) (l : Level) (e : Word) (s : State) : (raiseFatal va l e s).rootSet = s.rootSet := rfl
@[simp] theorem raiseFatal_phase (va : Word) (l : Level) (e : Word) (s : State) : (raiseFatal va l e s).phase = .halt := rfl
@[simp] theorem raiseFatal_opc (va : Word) (l : Level) (e : Word) (s : State) : (raiseFatal va l e s).opc = s.opc := rfl
@[simp] theorem raiseFatal_va (va : Word) (l : Level) (e : Word) (s : State) : (raiseFatal va l e s).va = s.va := rfl
@[simp] theorem raiseFatal_wdata (va : Word) (l : Level) (e : Word) (s : State) : (raiseFatal va l e s).wdata = s.wdata := rfl
@[simp] theorem raiseFatal_level (va : Word) (l : Level) (e : Word) (s : State) : (raiseFatal va l e s).level = s.level := rfl
@[simp] theorem raiseFatal_table (va : Word) (l : Level) (e : Word) (s : State) : (raiseFatal va l e s).table = s.table := rfl
@[simp] theorem raiseFatal_eaddr (va : Word) (l : Level) (e : Word) (s : State) : (raiseFatal va l e s).eaddr = s.eaddr := rfl
@[simp] theorem raiseFatal_entry (va : Word) (l : Level) (e : Word) (s : State) : (raiseFatal va l e s).entry = s.entry := rfl
@[simp] theorem raiseFatal_faulted (va : Word) (l : Level) (e : Word) (s : State) : (raiseFatal va l e s).faulted = s.faulted := rfl
@[simp] theorem raiseFatal_fatal (va : Word) (l : Level) (e : Word) (s : State) : (raiseFatal va l e s).fatal = true := rfl
@[simp] theorem raiseFatal_cause (va : Word) (l : Level) (e : Word) (s : State) : (raiseFatal va l e s).cause = .badAddress := rfl
@[simp] theorem raiseFatal_abortReason (va : Word) (l : Level) (e : Word) (s : State) : (raiseFatal va l e s).abortReason = s.abortReason := rfl
@[simp] theorem raiseFatal_diagValid (va : Word) (l : Level) (e : Word) (s : State) : (raiseFatal va l e s).diagValid = true := rfl
@[simp] theorem raiseFatal_diagVa (va : Word) (l : Level) (e : Word) (s : State) : (raiseFatal va l e s).diagVa = va := rfl
@[simp] theorem raiseFatal_diagLevel (va : Word) (l : Level) (e : Word) (s : State) : (raiseFatal va l e s).diagLevel = l := rfl
@[simp] theorem raiseFatal_diagPpn (va : Word) (l : Level) (e : Word) (s : State) : (raiseFatal va l e s).diagPpn = getPpn e := rfl
@[simp] theorem raiseFatal_diagFlags (va : Word) (l : Level) (e : Word) (s : State) : (raiseFatal va l e s).diagFlags = diagFlagsOf e := rfl
@[simp] theorem raiseFatal_pool (va : Word) (l : Level) (e : Word) (s : State) : (raiseFatal va l e s).pool = s.pool := rfl
@[simp] theorem raiseFatal_lastPpn (va : Word) (l : Level) (e : Word) (s : State) : (raiseFatal va l e s).lastPpn = s.lastPpn := rfl
@[simp] theorem raiseFatal_handler (va : Word) (l : Level) (e : Word) (s : State) : (raiseFatal va l e s).handler = s.handler := rfl
@[simp] theorem raiseFatal_agentTurns (va : Word) (l : Level) (e : Word) (s : State) : (raiseFatal va l e s).agentTurns = s.agentTurns := rfl
@[simp] theorem raiseFatal_hostQueue (va : Word) (l : Level) (e : Word) (s : State) : (raiseFatal va l e s).hostQueue = s.hostQueue := rfl
@[simp] theorem raiseFatal_rsp (va : Word) (l : Level) (e : Word) (s : State) : (raiseFatal va l e s).rsp = s.rsp := rfl
@[simp] theorem raiseFatal_events (va : Word) (l : Level) (e : Word) (s : State) : (raiseFatal va l e s).events = s.events := rfl
@[simp] theorem raiseFatal_hostVal (va : Word) (l : Level) (e : Word) (s : State) : (raiseFatal va l e s).hostVal = s.hostVal := rfl

@[simp] theorem raiseAbort_root (r : AbortReason) (s : State) : (raiseAbort r s).root = s.root := rfl
@[simp] theorem raiseAbort_rootSet (r : AbortReason) (s : State) : (raiseAbort r s).rootSet = s.rootSet := rfl
@[simp] theorem raiseAbort_phase (r : AbortReason) (s : State) : (raiseAbort r s).phase = .halt := rfl
@[simp] theorem raiseAbort_opc (r : AbortReason) (s : State) : (raiseAbort r s).opc = s.opc := rfl
@[simp] theorem raiseAbort_va (r : AbortReason) (s : State) : (raiseAbort r s).va = s.va := rfl
@[simp] theorem raiseAbort_wdata (r : AbortReason) (s : State) : (raiseAbort r s).wdata = s.wdata := rfl
@[simp] theorem raiseAbort_level (r : AbortReason) (s : State) : (raiseAbort r s).level = s.level := rfl
@[simp] theorem raiseAbort_table (r : AbortReason) (s : State) : (raiseAbort r s).table = s.table := rfl
@[simp] theorem raiseAbort_eaddr (r : AbortReason) (s : State) : (raiseAbort r s).eaddr = s.eaddr := rfl
@[simp] theorem raiseAbort_entry (r : AbortReason) (s : State) : (raiseAbort r s).entry = s.entry := rfl
@[simp] theorem raiseAbort_faulted (r : AbortReason) (s : State) : (raiseAbort r s).faulted = s.faulted := rfl
@[simp] theorem raiseAbort_fatal (r : AbortReason) (s : State) : (raiseAbort r s).fatal = true := rfl
@[simp] theorem raiseAbort_cause (r : AbortReason) (s : State) : (raiseAbort r s).cause = .abort := rfl
@[simp] theorem raiseAbort_abortReason (r : AbortReason) (s : State) : (raiseAbort r s).abortReason = r := rfl
@[simp] theorem raiseAbort_diagValid (r : AbortReason) (s : State) : (raiseAbort r s).diagValid = s.diagValid := rfl
@[simp] theorem raiseAbort_diagVa (r : AbortReason) (s : State) : (raiseAbort r s).diagVa = s.diagVa := rfl
@[simp] theorem raiseAbort_diagLevel (r : AbortReason) (s : State) : (raiseAbort r s).diagLevel = s.diagLevel := rfl
@[simp] theorem raiseAbort_diagPpn (r : AbortReason) (s : State) : (raiseAbort r s).diagPpn = s.diagPpn := rfl
@[simp] theorem raiseAbort_diagFlags (r : AbortReason) (s : State) : (raiseAbort r s).diagFlags = s.diagFlags := rfl
@[simp] theorem raiseAbort_pool (r : AbortReason) (s : State) : (raiseAbort r s).pool = s.pool := rfl
@[simp] theorem raiseAbort_lastPpn (r : AbortReason) (s : State) : (raiseAbort r s).lastPpn = s.lastPpn := rfl
@[simp] theorem raiseAbort_handler (r : AbortReason) (s : State) : (raiseAbort r s).handler = s.handler := rfl
@[simp] theorem raiseAbort_agentTurns (r : AbortReason) (s : State) : (raiseAbort r s).agentTurns = s.agentTurns := rfl
@[simp] theorem raiseAbort_hostQueue (r : AbortReason) (s : State) : (raiseAbort r s).hostQueue = s.hostQueue := rfl
@[simp] theorem raiseAbort_rsp (r : AbortReason) (s : State) : (raiseAbort r s).rsp = s.rsp := rfl
@[simp] theorem raiseAbort_events (r : AbortReason) (s : State) : (raiseAbort r s).events = s.events := rfl
@[simp] theorem raiseAbort_hostVal (r : AbortReason) (s : State) : (raiseAbort r s).hostVal = s.hostVal := rfl

@[simp] theorem raiseTerminate_root (c : TermCause) (s : State) : (raiseTerminate c s).root = s.root := rfl
@[simp] theorem raiseTerminate_rootSet (c : TermCause) (s : State) : (raiseTerminate c s).rootSet = s.rootSet := rfl
@[simp] theorem raiseTerminate_phase (c : TermCause) (s : State) : (raiseTerminate c s).phase = .halt := rfl
@[simp] theorem raiseTerminate_opc (c : TermCause) (s : State) : (raiseTerminate c s).opc = s.opc := rfl
@[simp] theorem raiseTerminate_va (c : TermCause) (s : State) : (raiseTerminate c s).va = s.va := rfl
@[simp] theorem raiseTerminate_wdata (c : TermCause) (s : State) : (raiseTerminate c s).wdata = s.wdata := rfl
@[simp] theorem raiseTerminate_level (c : TermCause) (s : State) : (raiseTerminate c s).level = s.level := rfl
@[simp] theorem raiseTerminate_table (c : TermCause) (s : State) : (raiseTerminate c s).table = s.table := rfl
@[simp] theorem raiseTerminate_eaddr (c : TermCause) (s : State) : (raiseTerminate c s).eaddr = s.eaddr := rfl
@[simp] theorem raiseTerminate_entry (c : TermCause) (s : State) : (raiseTerminate c s).entry = s.entry := rfl
@[simp] theorem raiseTerminate_faulted (c : TermCause) (s : State) : (raiseTerminate c s).faulted = s.faulted := rfl
@[simp] theorem raiseTerminate_fatal (c : TermCause) (s : State) : (raiseTerminate c s).fatal = true := rfl
@[simp] theorem raiseTerminate_cause (c : TermCause) (s : State) : (raiseTerminate c s).cause = c.cause := rfl
@[simp] theorem raiseTerminate_abortReason (c : TermCause) (s : State) : (raiseTerminate c s).abortReason = s.abortReason := rfl
@[simp] theorem raiseTerminate_diagValid (c : TermCause) (s : State) : (raiseTerminate c s).diagValid = s.diagValid := rfl
@[simp] theorem raiseTerminate_diagVa (c : TermCause) (s : State) : (raiseTerminate c s).diagVa = s.diagVa := rfl
@[simp] theorem raiseTerminate_diagLevel (c : TermCause) (s : State) : (raiseTerminate c s).diagLevel = s.diagLevel := rfl
@[simp] theorem raiseTerminate_diagPpn (c : TermCause) (s : State) : (raiseTerminate c s).diagPpn = s.diagPpn := rfl
@[simp] theorem raiseTerminate_diagFlags (c : TermCause) (s : State) : (raiseTerminate c s).diagFlags = s.diagFlags := rfl
@[simp] theorem raiseTerminate_pool (c : TermCause) (s : State) : (raiseTerminate c s).pool = s.pool := rfl
@[simp] theorem raiseTerminate_lastPpn (c : TermCause) (s : State) : (raiseTerminate c s).lastPpn = s.lastPpn := rfl
@[simp] theorem raiseTerminate_handler (c : TermCause) (s : State) : (raiseTerminate c s).handler = s.handler := rfl
@[simp] theorem raiseTerminate_agentTurns (c : TermCause) (s : State) : (raiseTerminate c s).agentTurns = s.agentTurns := rfl
@[simp] theorem raiseTerminate_hostQueue (c : TermCause) (s : State) : (raiseTerminate c s).hostQueue = s.hostQueue := rfl
@[simp] theorem raiseTerminate_rsp (c : TermCause) (s : State) : (raiseTerminate c s).rsp = s.rsp := rfl
@[simp] theorem raiseTerminate_events (c : TermCause) (s : State) : (raiseTerminate c s).events = s.events := rfl
@[simp] theorem raiseTerminate_hostVal (c : TermCause) (s : State) : (raiseTerminate c s).hostVal = s.hostVal := rfl

@[simp] theorem callHandler_root (l : Level) (w : Phase) (s : State) : (callHandler l w s).root = s.root := rfl
@[simp] theorem callHandler_rootSet (l : Level) (w : Phase) (s : State) : (callHandler l w s).rootSet = s.rootSet := rfl
@[simp] theorem callHandler_phase (l : Level) (w : Phase) (s : State) : (callHandler l w s).phase = w := rfl
@[simp] theorem callHandler_opc (l : Level) (w : Phase) (s : State) : (callHandler l w s).opc = s.opc := rfl
@[simp] theorem callHandler_va (l : Level) (w : Phase) (s : State) : (callHandler l w s).va = s.va := rfl
@[simp] theorem callHandler_wdata (l : Level) (w : Phase) (s : State) : (callHandler l w s).wdata = s.wdata := rfl
@[simp] theorem callHandler_level (l : Level) (w : Phase) (s : State) : (callHandler l w s).level = s.level := rfl
@[simp] theorem callHandler_table (l : Level) (w : Phase) (s : State) : (callHandler l w s).table = s.table := rfl
@[simp] theorem callHandler_eaddr (l : Level) (w : Phase) (s : State) : (callHandler l w s).eaddr = s.eaddr := rfl
@[simp] theorem callHandler_entry (l : Level) (w : Phase) (s : State) : (callHandler l w s).entry = s.entry := rfl
@[simp] theorem callHandler_faulted (l : Level) (w : Phase) (s : State) : (callHandler l w s).faulted = true := rfl
@[simp] theorem callHandler_fatal (l : Level) (w : Phase) (s : State) : (callHandler l w s).fatal = s.fatal := rfl
@[simp] theorem callHandler_cause (l : Level) (w : Phase) (s : State) : (callHandler l w s).cause = s.cause := rfl
@[simp] theorem callHandler_abortReason (l : Level) (w : Phase) (s : State) : (callHandler l w s).abortReason = s.abortReason := rfl
@[simp] theorem callHandler_diagValid (l : Level) (w : Phase) (s : State) : (callHandler l w s).diagValid = s.diagValid := rfl
@[simp] theorem callHandler_diagVa (l : Level) (w : Phase) (s : State) : (callHandler l w s).diagVa = s.diagVa := rfl
@[simp] theorem callHandler_diagLevel (l : Level) (w : Phase) (s : State) : (callHandler l w s).diagLevel = s.diagLevel := rfl
@[simp] theorem callHandler_diagPpn (l : Level) (w : Phase) (s : State) : (callHandler l w s).diagPpn = s.diagPpn := rfl
@[simp] theorem callHandler_diagFlags (l : Level) (w : Phase) (s : State) : (callHandler l w s).diagFlags = s.diagFlags := rfl
@[simp] theorem callHandler_pool (l : Level) (w : Phase) (s : State) : (callHandler l w s).pool = s.pool := rfl
@[simp] theorem callHandler_lastPpn (l : Level) (w : Phase) (s : State) : (callHandler l w s).lastPpn = s.lastPpn := rfl
@[simp] theorem callHandler_handler (l : Level) (w : Phase) (s : State) : (callHandler l w s).handler = s.handler := rfl
@[simp] theorem callHandler_agentTurns (l : Level) (w : Phase) (s : State) : (callHandler l w s).agentTurns = s.agentTurns := rfl
@[simp] theorem callHandler_hostQueue (l : Level) (w : Phase) (s : State) : (callHandler l w s).hostQueue = s.hostQueue := rfl
@[simp] theorem callHandler_rsp (l : Level) (w : Phase) (s : State) : (callHandler l w s).rsp = s.rsp := rfl
@[simp] theorem callHandler_events (l : Level) (w : Phase) (s : State) : (callHandler l w s).events = s.events ++ [.call (faultRequest s l)] := rfl
@[simp] theorem callHandler_hostVal (l : Level) (w : Phase) (s : State) : (callHandler l w s).hostVal = s.hostVal := rfl

@[simp] theorem fetchEntry_root (a : Pa) (s : State) : (fetchEntry a s).root = s.root := rfl
@[simp] theorem fetchEntry_rootSet (a : Pa) (s : State) : (fetchEntry a s).rootSet = s.rootSet := rfl
@[simp] theorem fetchEntry_phase (a : Pa) (s : State) : (fetchEntry a s).phase = s.phase := rfl
@[simp] theorem fetchEntry_opc (a : Pa) (s : State) : (fetchEntry a s).opc = s.opc := rfl
@[simp] theorem fetchEntry_va (a : Pa) (s : State) : (fetchEntry a s).va = s.va := rfl
@[simp] theorem fetchEntry_wdata (a : Pa) (s : State) : (fetchEntry a s).wdata = s.wdata := rfl
@[simp] theorem fetchEntry_level (a : Pa) (s : State) : (fetchEntry a s).level = s.level := rfl
@[simp] theorem fetchEntry_table (a : Pa) (s : State) : (fetchEntry a s).table = s.table := rfl
@[simp] theorem fetchEntry_eaddr (a : Pa) (s : State) : (fetchEntry a s).eaddr = a := rfl
@[simp] theorem fetchEntry_entry (a : Pa) (s : State) : (fetchEntry a s).entry = memRead8 s.pool.mem a.toNat := rfl
@[simp] theorem fetchEntry_faulted (a : Pa) (s : State) : (fetchEntry a s).faulted = s.faulted := rfl
@[simp] theorem fetchEntry_fatal (a : Pa) (s : State) : (fetchEntry a s).fatal = s.fatal := rfl
@[simp] theorem fetchEntry_cause (a : Pa) (s : State) : (fetchEntry a s).cause = s.cause := rfl
@[simp] theorem fetchEntry_abortReason (a : Pa) (s : State) : (fetchEntry a s).abortReason = s.abortReason := rfl
@[simp] theorem fetchEntry_diagValid (a : Pa) (s : State) : (fetchEntry a s).diagValid = s.diagValid := rfl
@[simp] theorem fetchEntry_diagVa (a : Pa) (s : State) : (fetchEntry a s).diagVa = s.diagVa := rfl
@[simp] theorem fetchEntry_diagLevel (a : Pa) (s : State) : (fetchEntry a s).diagLevel = s.diagLevel := rfl
@[simp] theorem fetchEntry_diagPpn (a : Pa) (s : State) : (fetchEntry a s).diagPpn = s.diagPpn := rfl
@[simp] theorem fetchEntry_diagFlags (a : Pa) (s : State) : (fetchEntry a s).diagFlags = s.diagFlags := rfl
@[simp] theorem fetchEntry_pool (a : Pa) (s : State) : (fetchEntry a s).pool = s.pool := rfl
@[simp] theorem fetchEntry_lastPpn (a : Pa) (s : State) : (fetchEntry a s).lastPpn = s.lastPpn := rfl
@[simp] theorem fetchEntry_handler (a : Pa) (s : State) : (fetchEntry a s).handler = s.handler := rfl
@[simp] theorem fetchEntry_agentTurns (a : Pa) (s : State) : (fetchEntry a s).agentTurns = s.agentTurns := rfl
@[simp] theorem fetchEntry_hostQueue (a : Pa) (s : State) : (fetchEntry a s).hostQueue = s.hostQueue := rfl
@[simp] theorem fetchEntry_rsp (a : Pa) (s : State) : (fetchEntry a s).rsp = s.rsp := rfl
@[simp] theorem fetchEntry_events (a : Pa) (s : State) : (fetchEntry a s).events = s.events ++ [.fetch a] := rfl
@[simp] theorem fetchEntry_hostVal (a : Pa) (s : State) : (fetchEntry a s).hostVal = s.hostVal := rfl

@[simp] theorem resumeWalk_root (s : State) : (resumeWalk s).root = s.root := rfl
@[simp] theorem resumeWalk_rootSet (s : State) : (resumeWalk s).rootSet = s.rootSet := rfl
@[simp] theorem resumeWalk_phase (s : State) : (resumeWalk s).phase = .walk := rfl
@[simp] theorem resumeWalk_opc (s : State) : (resumeWalk s).opc = s.opc := rfl
@[simp] theorem resumeWalk_va (s : State) : (resumeWalk s).va = s.va := rfl
@[simp] theorem resumeWalk_wdata (s : State) : (resumeWalk s).wdata = s.wdata := rfl
@[simp] theorem resumeWalk_level (s : State) : (resumeWalk s).level = s.level := rfl
@[simp] theorem resumeWalk_table (s : State) : (resumeWalk s).table = s.table := rfl
@[simp] theorem resumeWalk_eaddr (s : State) : (resumeWalk s).eaddr = s.eaddr := rfl
@[simp] theorem resumeWalk_entry (s : State) : (resumeWalk s).entry = s.entry := rfl
@[simp] theorem resumeWalk_faulted (s : State) : (resumeWalk s).faulted = s.faulted := rfl
@[simp] theorem resumeWalk_fatal (s : State) : (resumeWalk s).fatal = s.fatal := rfl
@[simp] theorem resumeWalk_cause (s : State) : (resumeWalk s).cause = s.cause := rfl
@[simp] theorem resumeWalk_abortReason (s : State) : (resumeWalk s).abortReason = s.abortReason := rfl
@[simp] theorem resumeWalk_diagValid (s : State) : (resumeWalk s).diagValid = s.diagValid := rfl
@[simp] theorem resumeWalk_diagVa (s : State) : (resumeWalk s).diagVa = s.diagVa := rfl
@[simp] theorem resumeWalk_diagLevel (s : State) : (resumeWalk s).diagLevel = s.diagLevel := rfl
@[simp] theorem resumeWalk_diagPpn (s : State) : (resumeWalk s).diagPpn = s.diagPpn := rfl
@[simp] theorem resumeWalk_diagFlags (s : State) : (resumeWalk s).diagFlags = s.diagFlags := rfl
@[simp] theorem resumeWalk_pool (s : State) : (resumeWalk s).pool = s.pool := rfl
@[simp] theorem resumeWalk_lastPpn (s : State) : (resumeWalk s).lastPpn = s.lastPpn := rfl
@[simp] theorem resumeWalk_handler (s : State) : (resumeWalk s).handler = s.handler := rfl
@[simp] theorem resumeWalk_agentTurns (s : State) : (resumeWalk s).agentTurns = s.agentTurns := rfl
@[simp] theorem resumeWalk_hostQueue (s : State) : (resumeWalk s).hostQueue = s.hostQueue := rfl
@[simp] theorem resumeWalk_rsp (s : State) : (resumeWalk s).rsp = s.rsp := rfl
@[simp] theorem resumeWalk_events (s : State) : (resumeWalk s).events = s.events := rfl
@[simp] theorem resumeWalk_hostVal (s : State) : (resumeWalk s).hostVal = s.hostVal := rfl

@[simp] theorem resumePerm_root (s : State) : (resumePerm s).root = s.root := rfl
@[simp] theorem resumePerm_rootSet (s : State) : (resumePerm s).rootSet = s.rootSet := rfl
@[simp] theorem resumePerm_phase (s : State) : (resumePerm s).phase = .perm := rfl
@[simp] theorem resumePerm_opc (s : State) : (resumePerm s).opc = s.opc := rfl
@[simp] theorem resumePerm_va (s : State) : (resumePerm s).va = s.va := rfl
@[simp] theorem resumePerm_wdata (s : State) : (resumePerm s).wdata = s.wdata := rfl
@[simp] theorem resumePerm_level (s : State) : (resumePerm s).level = s.level := rfl
@[simp] theorem resumePerm_table (s : State) : (resumePerm s).table = s.table := rfl
@[simp] theorem resumePerm_eaddr (s : State) : (resumePerm s).eaddr = s.eaddr := rfl
@[simp] theorem resumePerm_entry (s : State) : (resumePerm s).entry = memRead8 s.pool.mem s.eaddr.toNat := rfl
@[simp] theorem resumePerm_faulted (s : State) : (resumePerm s).faulted = s.faulted := rfl
@[simp] theorem resumePerm_fatal (s : State) : (resumePerm s).fatal = s.fatal := rfl
@[simp] theorem resumePerm_cause (s : State) : (resumePerm s).cause = s.cause := rfl
@[simp] theorem resumePerm_abortReason (s : State) : (resumePerm s).abortReason = s.abortReason := rfl
@[simp] theorem resumePerm_diagValid (s : State) : (resumePerm s).diagValid = s.diagValid := rfl
@[simp] theorem resumePerm_diagVa (s : State) : (resumePerm s).diagVa = s.diagVa := rfl
@[simp] theorem resumePerm_diagLevel (s : State) : (resumePerm s).diagLevel = s.diagLevel := rfl
@[simp] theorem resumePerm_diagPpn (s : State) : (resumePerm s).diagPpn = s.diagPpn := rfl
@[simp] theorem resumePerm_diagFlags (s : State) : (resumePerm s).diagFlags = s.diagFlags := rfl
@[simp] theorem resumePerm_pool (s : State) : (resumePerm s).pool = s.pool := rfl
@[simp] theorem resumePerm_lastPpn (s : State) : (resumePerm s).lastPpn = s.lastPpn := rfl
@[simp] theorem resumePerm_handler (s : State) : (resumePerm s).handler = s.handler := rfl
@[simp] theorem resumePerm_agentTurns (s : State) : (resumePerm s).agentTurns = s.agentTurns := rfl
@[simp] theorem resumePerm_hostQueue (s : State) : (resumePerm s).hostQueue = s.hostQueue := rfl
@[simp] theorem resumePerm_rsp (s : State) : (resumePerm s).rsp = s.rsp := rfl
@[simp] theorem resumePerm_events (s : State) : (resumePerm s).events = s.events ++ [.fetch s.eaddr] := rfl
@[simp] theorem resumePerm_hostVal (s : State) : (resumePerm s).hostVal = s.hostVal := rfl

@[simp] theorem descend_root (l : Level) (s : State) : (descend l s).root = s.root := rfl
@[simp] theorem descend_rootSet (l : Level) (s : State) : (descend l s).rootSet = s.rootSet := rfl
@[simp] theorem descend_phase (l : Level) (s : State) : (descend l s).phase = .walk := rfl
@[simp] theorem descend_opc (l : Level) (s : State) : (descend l s).opc = s.opc := rfl
@[simp] theorem descend_va (l : Level) (s : State) : (descend l s).va = s.va := rfl
@[simp] theorem descend_wdata (l : Level) (s : State) : (descend l s).wdata = s.wdata := rfl
@[simp] theorem descend_level (l : Level) (s : State) : (descend l s).level = l := rfl
@[simp] theorem descend_table (l : Level) (s : State) : (descend l s).table = getPpn s.entry := rfl
@[simp] theorem descend_eaddr (l : Level) (s : State) : (descend l s).eaddr = s.eaddr := rfl
@[simp] theorem descend_entry (l : Level) (s : State) : (descend l s).entry = s.entry := rfl
@[simp] theorem descend_faulted (l : Level) (s : State) : (descend l s).faulted = false := rfl
@[simp] theorem descend_fatal (l : Level) (s : State) : (descend l s).fatal = s.fatal := rfl
@[simp] theorem descend_cause (l : Level) (s : State) : (descend l s).cause = s.cause := rfl
@[simp] theorem descend_abortReason (l : Level) (s : State) : (descend l s).abortReason = s.abortReason := rfl
@[simp] theorem descend_diagValid (l : Level) (s : State) : (descend l s).diagValid = s.diagValid := rfl
@[simp] theorem descend_diagVa (l : Level) (s : State) : (descend l s).diagVa = s.diagVa := rfl
@[simp] theorem descend_diagLevel (l : Level) (s : State) : (descend l s).diagLevel = s.diagLevel := rfl
@[simp] theorem descend_diagPpn (l : Level) (s : State) : (descend l s).diagPpn = s.diagPpn := rfl
@[simp] theorem descend_diagFlags (l : Level) (s : State) : (descend l s).diagFlags = s.diagFlags := rfl
@[simp] theorem descend_pool (l : Level) (s : State) : (descend l s).pool = s.pool := rfl
@[simp] theorem descend_lastPpn (l : Level) (s : State) : (descend l s).lastPpn = s.lastPpn := rfl
@[simp] theorem descend_handler (l : Level) (s : State) : (descend l s).handler = s.handler := rfl
@[simp] theorem descend_agentTurns (l : Level) (s : State) : (descend l s).agentTurns = s.agentTurns := rfl
@[simp] theorem descend_hostQueue (l : Level) (s : State) : (descend l s).hostQueue = s.hostQueue := rfl
@[simp] theorem descend_rsp (l : Level) (s : State) : (descend l s).rsp = s.rsp := rfl
@[simp] theorem descend_events (l : Level) (s : State) : (descend l s).events = s.events := rfl
@[simp] theorem descend_hostVal (l : Level) (s : State) : (descend l s).hostVal = s.hostVal := rfl

@[simp] theorem enterPerm_root (s : State) : (enterPerm s).root = s.root := rfl
@[simp] theorem enterPerm_rootSet (s : State) : (enterPerm s).rootSet = s.rootSet := rfl
@[simp] theorem enterPerm_phase (s : State) : (enterPerm s).phase = .perm := rfl
@[simp] theorem enterPerm_opc (s : State) : (enterPerm s).opc = s.opc := rfl
@[simp] theorem enterPerm_va (s : State) : (enterPerm s).va = s.va := rfl
@[simp] theorem enterPerm_wdata (s : State) : (enterPerm s).wdata = s.wdata := rfl
@[simp] theorem enterPerm_level (s : State) : (enterPerm s).level = s.level := rfl
@[simp] theorem enterPerm_table (s : State) : (enterPerm s).table = s.table := rfl
@[simp] theorem enterPerm_eaddr (s : State) : (enterPerm s).eaddr = s.eaddr := rfl
@[simp] theorem enterPerm_entry (s : State) : (enterPerm s).entry = s.entry := rfl
@[simp] theorem enterPerm_faulted (s : State) : (enterPerm s).faulted = false := rfl
@[simp] theorem enterPerm_fatal (s : State) : (enterPerm s).fatal = s.fatal := rfl
@[simp] theorem enterPerm_cause (s : State) : (enterPerm s).cause = s.cause := rfl
@[simp] theorem enterPerm_abortReason (s : State) : (enterPerm s).abortReason = s.abortReason := rfl
@[simp] theorem enterPerm_diagValid (s : State) : (enterPerm s).diagValid = s.diagValid := rfl
@[simp] theorem enterPerm_diagVa (s : State) : (enterPerm s).diagVa = s.diagVa := rfl
@[simp] theorem enterPerm_diagLevel (s : State) : (enterPerm s).diagLevel = s.diagLevel := rfl
@[simp] theorem enterPerm_diagPpn (s : State) : (enterPerm s).diagPpn = s.diagPpn := rfl
@[simp] theorem enterPerm_diagFlags (s : State) : (enterPerm s).diagFlags = s.diagFlags := rfl
@[simp] theorem enterPerm_pool (s : State) : (enterPerm s).pool = s.pool := rfl
@[simp] theorem enterPerm_lastPpn (s : State) : (enterPerm s).lastPpn = s.lastPpn := rfl
@[simp] theorem enterPerm_handler (s : State) : (enterPerm s).handler = s.handler := rfl
@[simp] theorem enterPerm_agentTurns (s : State) : (enterPerm s).agentTurns = s.agentTurns := rfl
@[simp] theorem enterPerm_hostQueue (s : State) : (enterPerm s).hostQueue = s.hostQueue := rfl
@[simp] theorem enterPerm_rsp (s : State) : (enterPerm s).rsp = s.rsp := rfl
@[simp] theorem enterPerm_events (s : State) : (enterPerm s).events = s.events := rfl
@[simp] theorem enterPerm_hostVal (s : State) : (enterPerm s).hostVal = s.hostVal := rfl

@[simp] theorem enterXfer_root (s : State) : (enterXfer s).root = s.root := rfl
@[simp] theorem enterXfer_rootSet (s : State) : (enterXfer s).rootSet = s.rootSet := rfl
@[simp] theorem enterXfer_phase (s : State) : (enterXfer s).phase = .xfer := rfl
@[simp] theorem enterXfer_opc (s : State) : (enterXfer s).opc = s.opc := rfl
@[simp] theorem enterXfer_va (s : State) : (enterXfer s).va = s.va := rfl
@[simp] theorem enterXfer_wdata (s : State) : (enterXfer s).wdata = s.wdata := rfl
@[simp] theorem enterXfer_level (s : State) : (enterXfer s).level = s.level := rfl
@[simp] theorem enterXfer_table (s : State) : (enterXfer s).table = s.table := rfl
@[simp] theorem enterXfer_eaddr (s : State) : (enterXfer s).eaddr = s.eaddr := rfl
@[simp] theorem enterXfer_entry (s : State) : (enterXfer s).entry = s.entry := rfl
@[simp] theorem enterXfer_faulted (s : State) : (enterXfer s).faulted = s.faulted := rfl
@[simp] theorem enterXfer_fatal (s : State) : (enterXfer s).fatal = s.fatal := rfl
@[simp] theorem enterXfer_cause (s : State) : (enterXfer s).cause = s.cause := rfl
@[simp] theorem enterXfer_abortReason (s : State) : (enterXfer s).abortReason = s.abortReason := rfl
@[simp] theorem enterXfer_diagValid (s : State) : (enterXfer s).diagValid = s.diagValid := rfl
@[simp] theorem enterXfer_diagVa (s : State) : (enterXfer s).diagVa = s.diagVa := rfl
@[simp] theorem enterXfer_diagLevel (s : State) : (enterXfer s).diagLevel = s.diagLevel := rfl
@[simp] theorem enterXfer_diagPpn (s : State) : (enterXfer s).diagPpn = s.diagPpn := rfl
@[simp] theorem enterXfer_diagFlags (s : State) : (enterXfer s).diagFlags = s.diagFlags := rfl
@[simp] theorem enterXfer_pool (s : State) : (enterXfer s).pool = s.pool := rfl
@[simp] theorem enterXfer_lastPpn (s : State) : (enterXfer s).lastPpn = s.lastPpn := rfl
@[simp] theorem enterXfer_handler (s : State) : (enterXfer s).handler = s.handler := rfl
@[simp] theorem enterXfer_agentTurns (s : State) : (enterXfer s).agentTurns = s.agentTurns := rfl
@[simp] theorem enterXfer_hostQueue (s : State) : (enterXfer s).hostQueue = s.hostQueue := rfl
@[simp] theorem enterXfer_rsp (s : State) : (enterXfer s).rsp = s.rsp := rfl
@[simp] theorem enterXfer_events (s : State) : (enterXfer s).events = s.events := rfl
@[simp] theorem enterXfer_hostVal (s : State) : (enterXfer s).hostVal = s.hostVal := rfl

@[simp] theorem storeByte_root (a : Pa) (s : State) : (storeByte a s).root = s.root := rfl
@[simp] theorem storeByte_rootSet (a : Pa) (s : State) : (storeByte a s).rootSet = s.rootSet := rfl
@[simp] theorem storeByte_phase (a : Pa) (s : State) : (storeByte a s).phase = s.phase := rfl
@[simp] theorem storeByte_opc (a : Pa) (s : State) : (storeByte a s).opc = s.opc := rfl
@[simp] theorem storeByte_va (a : Pa) (s : State) : (storeByte a s).va = s.va := rfl
@[simp] theorem storeByte_wdata (a : Pa) (s : State) : (storeByte a s).wdata = s.wdata := rfl
@[simp] theorem storeByte_level (a : Pa) (s : State) : (storeByte a s).level = s.level := rfl
@[simp] theorem storeByte_table (a : Pa) (s : State) : (storeByte a s).table = s.table := rfl
@[simp] theorem storeByte_eaddr (a : Pa) (s : State) : (storeByte a s).eaddr = s.eaddr := rfl
@[simp] theorem storeByte_entry (a : Pa) (s : State) : (storeByte a s).entry = s.entry := rfl
@[simp] theorem storeByte_faulted (a : Pa) (s : State) : (storeByte a s).faulted = s.faulted := rfl
@[simp] theorem storeByte_fatal (a : Pa) (s : State) : (storeByte a s).fatal = s.fatal := rfl
@[simp] theorem storeByte_cause (a : Pa) (s : State) : (storeByte a s).cause = s.cause := rfl
@[simp] theorem storeByte_abortReason (a : Pa) (s : State) : (storeByte a s).abortReason = s.abortReason := rfl
@[simp] theorem storeByte_diagValid (a : Pa) (s : State) : (storeByte a s).diagValid = s.diagValid := rfl
@[simp] theorem storeByte_diagVa (a : Pa) (s : State) : (storeByte a s).diagVa = s.diagVa := rfl
@[simp] theorem storeByte_diagLevel (a : Pa) (s : State) : (storeByte a s).diagLevel = s.diagLevel := rfl
@[simp] theorem storeByte_diagPpn (a : Pa) (s : State) : (storeByte a s).diagPpn = s.diagPpn := rfl
@[simp] theorem storeByte_diagFlags (a : Pa) (s : State) : (storeByte a s).diagFlags = s.diagFlags := rfl
@[simp] theorem storeByte_pool (a : Pa) (s : State) : (storeByte a s).pool = { s.pool with mem := memWrite1 s.pool.mem a.toNat s.wdata } := rfl
@[simp] theorem storeByte_lastPpn (a : Pa) (s : State) : (storeByte a s).lastPpn = s.lastPpn := rfl
@[simp] theorem storeByte_handler (a : Pa) (s : State) : (storeByte a s).handler = s.handler := rfl
@[simp] theorem storeByte_agentTurns (a : Pa) (s : State) : (storeByte a s).agentTurns = s.agentTurns := rfl
@[simp] theorem storeByte_hostQueue (a : Pa) (s : State) : (storeByte a s).hostQueue = s.hostQueue := rfl
@[simp] theorem storeByte_rsp (a : Pa) (s : State) : (storeByte a s).rsp = s.rsp := rfl
@[simp] theorem storeByte_events (a : Pa) (s : State) : (storeByte a s).events = s.events ++ [.store a s.wdata] := rfl
@[simp] theorem storeByte_hostVal (a : Pa) (s : State) : (storeByte a s).hostVal = s.hostVal := rfl

@[simp] theorem setRoot_root (f : Ppn) (s : State) : (setRoot f s).root = f := rfl
@[simp] theorem setRoot_rootSet (f : Ppn) (s : State) : (setRoot f s).rootSet = true := rfl
@[simp] theorem setRoot_phase (f : Ppn) (s : State) : (setRoot f s).phase = .idle := rfl
@[simp] theorem setRoot_opc (f : Ppn) (s : State) : (setRoot f s).opc = s.opc := rfl
@[simp] theorem setRoot_va (f : Ppn) (s : State) : (setRoot f s).va = s.va := rfl
@[simp] theorem setRoot_wdata (f : Ppn) (s : State) : (setRoot f s).wdata = s.wdata := rfl
@[simp] theorem setRoot_level (f : Ppn) (s : State) : (setRoot f s).level = s.level := rfl
@[simp] theorem setRoot_table (f : Ppn) (s : State) : (setRoot f s).table = s.table := rfl
@[simp] theorem setRoot_eaddr (f : Ppn) (s : State) : (setRoot f s).eaddr = s.eaddr := rfl
@[simp] theorem setRoot_entry (f : Ppn) (s : State) : (setRoot f s).entry = s.entry := rfl
@[simp] theorem setRoot_faulted (f : Ppn) (s : State) : (setRoot f s).faulted = s.faulted := rfl
@[simp] theorem setRoot_fatal (f : Ppn) (s : State) : (setRoot f s).fatal = s.fatal := rfl
@[simp] theorem setRoot_cause (f : Ppn) (s : State) : (setRoot f s).cause = s.cause := rfl
@[simp] theorem setRoot_abortReason (f : Ppn) (s : State) : (setRoot f s).abortReason = s.abortReason := rfl
@[simp] theorem setRoot_diagValid (f : Ppn) (s : State) : (setRoot f s).diagValid = s.diagValid := rfl
@[simp] theorem setRoot_diagVa (f : Ppn) (s : State) : (setRoot f s).diagVa = s.diagVa := rfl
@[simp] theorem setRoot_diagLevel (f : Ppn) (s : State) : (setRoot f s).diagLevel = s.diagLevel := rfl
@[simp] theorem setRoot_diagPpn (f : Ppn) (s : State) : (setRoot f s).diagPpn = s.diagPpn := rfl
@[simp] theorem setRoot_diagFlags (f : Ppn) (s : State) : (setRoot f s).diagFlags = s.diagFlags := rfl
@[simp] theorem setRoot_pool (f : Ppn) (s : State) : (setRoot f s).pool = s.pool := rfl
@[simp] theorem setRoot_lastPpn (f : Ppn) (s : State) : (setRoot f s).lastPpn = s.lastPpn := rfl
@[simp] theorem setRoot_handler (f : Ppn) (s : State) : (setRoot f s).handler = s.handler := rfl
@[simp] theorem setRoot_agentTurns (f : Ppn) (s : State) : (setRoot f s).agentTurns = s.agentTurns := rfl
@[simp] theorem setRoot_hostQueue (f : Ppn) (s : State) : (setRoot f s).hostQueue = s.hostQueue := rfl
@[simp] theorem setRoot_rsp (f : Ppn) (s : State) : (setRoot f s).rsp = some 0 := rfl
@[simp] theorem setRoot_events (f : Ppn) (s : State) : (setRoot f s).events = s.events := rfl
@[simp] theorem setRoot_hostVal (f : Ppn) (s : State) : (setRoot f s).hostVal = s.hostVal := rfl

@[simp] theorem resetMachine_root (s : State) : (resetMachine s).root = State.reset.root := rfl
@[simp] theorem resetMachine_rootSet (s : State) : (resetMachine s).rootSet = State.reset.rootSet := rfl
@[simp] theorem resetMachine_phase (s : State) : (resetMachine s).phase = State.reset.phase := rfl
@[simp] theorem resetMachine_opc (s : State) : (resetMachine s).opc = State.reset.opc := rfl
@[simp] theorem resetMachine_va (s : State) : (resetMachine s).va = State.reset.va := rfl
@[simp] theorem resetMachine_wdata (s : State) : (resetMachine s).wdata = State.reset.wdata := rfl
@[simp] theorem resetMachine_level (s : State) : (resetMachine s).level = State.reset.level := rfl
@[simp] theorem resetMachine_table (s : State) : (resetMachine s).table = State.reset.table := rfl
@[simp] theorem resetMachine_eaddr (s : State) : (resetMachine s).eaddr = State.reset.eaddr := rfl
@[simp] theorem resetMachine_entry (s : State) : (resetMachine s).entry = State.reset.entry := rfl
@[simp] theorem resetMachine_faulted (s : State) : (resetMachine s).faulted = State.reset.faulted := rfl
@[simp] theorem resetMachine_fatal (s : State) : (resetMachine s).fatal = State.reset.fatal := rfl
@[simp] theorem resetMachine_cause (s : State) : (resetMachine s).cause = State.reset.cause := rfl
@[simp] theorem resetMachine_abortReason (s : State) : (resetMachine s).abortReason = State.reset.abortReason := rfl
@[simp] theorem resetMachine_diagValid (s : State) : (resetMachine s).diagValid = State.reset.diagValid := rfl
@[simp] theorem resetMachine_diagVa (s : State) : (resetMachine s).diagVa = State.reset.diagVa := rfl
@[simp] theorem resetMachine_diagLevel (s : State) : (resetMachine s).diagLevel = State.reset.diagLevel := rfl
@[simp] theorem resetMachine_diagPpn (s : State) : (resetMachine s).diagPpn = State.reset.diagPpn := rfl
@[simp] theorem resetMachine_diagFlags (s : State) : (resetMachine s).diagFlags = State.reset.diagFlags := rfl
@[simp] theorem resetMachine_pool (s : State) : (resetMachine s).pool = State.reset.pool := rfl
@[simp] theorem resetMachine_lastPpn (s : State) : (resetMachine s).lastPpn = s.lastPpn := rfl
@[simp] theorem resetMachine_handler (s : State) : (resetMachine s).handler = s.handler := rfl
@[simp] theorem resetMachine_agentTurns (s : State) : (resetMachine s).agentTurns = turnsAfterReset s := rfl
@[simp] theorem resetMachine_hostQueue (s : State) : (resetMachine s).hostQueue = s.hostQueue := rfl
@[simp] theorem resetMachine_rsp (s : State) : (resetMachine s).rsp = State.reset.rsp := rfl
@[simp] theorem resetMachine_events (s : State) : (resetMachine s).events = State.reset.events := rfl
@[simp] theorem resetMachine_hostVal (s : State) : (resetMachine s).hostVal = State.reset.hostVal := rfl

end Sys2Proof.Machine
end

