-- ==== Sys2Proof/Laws/Access.lean ====
section
/-! SUPPORT. All that one row of an access can do (spec/43_translator.md R153), and the induction over the rows of a
whole access. -/

namespace Sys2Proof.Machine

/-- The state after the fetch of T4. -/
def fetched (s : State) : State := fetchEntry (entryAt s.table (indexAt s.va s.level)) s

/-- The state after the handler's turn has left `p`. -/
def afterTurn (s : State) (p : Pool) : State := { s with pool := p, agentTurns := turnsAfter s }

/-- The rows of 43_translator.md R153, one constructor a row (a wait can also end in an abort of the handler). -/
inductive Row (s : State) : State → Prop where
  | t3 (hp : s.phase = .walk) (ht : inPool s.lastPpn s.table = false) : Row s (raiseAbort .frameRange s)
  | t4a (hp : s.phase = .walk) (ht : inPool s.lastPpn s.table = true)
      (hf : isFault (fetched s).entry s.level = true) (hn : s.faulted = false) :
      Row s (callHandler s.level .hwait (fetched s))
  | t4b (hp : s.phase = .walk) (ht : inPool s.lastPpn s.table = true)
      (hf : isFault (fetched s).entry s.level = true) (hn : s.faulted = true) :
      Row s (raiseFatal s.va s.level (fetched s).entry (fetched s))
  | t4c (l : Level) (hp : s.phase = .walk) (ht : inPool s.lastPpn s.table = true)
      (hf : isFault (fetched s).entry s.level = false) (hl : s.level.below = some l) :
      Row s (descend l (fetched s))
  | t4d (hp : s.phase = .walk) (ht : inPool s.lastPpn s.table = true)
      (hf : isFault (fetched s).entry s.level = false) (hl : s.level = .l0) (ho : s.opc = .walk) :
      Row s (respond ((fetched s).eaddr.setWidth 64) (fetched s))
  | t4e (hp : s.phase = .walk) (ht : inPool s.lastPpn s.table = true)
      (hf : isFault (fetched s).entry s.level = false) (hl : s.level = .l0) (ho : s.opc ≠ .walk) :
      Row s (enterPerm (fetched s))
  | t5 (p : Pool) (hp : s.phase = .hwait)
      (hh : handlerTurn s (faultRequest s s.level) = .completes .done p) : Row s (resumeWalk (afterTurn s p))
  | t6 (c : TermCause) (p : Pool) (hp : s.phase = .hwait)
      (hh : handlerTurn s (faultRequest s s.level) = .completes (.terminate c) p) :
      Row s (raiseTerminate c (afterTurn s p))
  | t6abort (r : AbortReason) (p : Pool) (hp : s.phase = .hwait)
      (hh : handlerTurn s (faultRequest s s.level) = .aborts r p) : Row s (raiseAbort r (afterTurn s p))
  | t7a (hp : s.phase = .perm) (hb : need s.entry s.opc = some true) : Row s (enterXfer s)
  | t7b (hp : s.phase = .perm) (hb : need s.entry s.opc = some false) (hn : s.faulted = false) :
      Row s (callHandler .l0 .pwait s)
  | t7c (hp : s.phase = .perm) (hb : need s.entry s.opc = some false) (hn : s.faulted = true) :
      Row s (raiseFatal s.va .l0 s.entry s)
  | t8 (p : Pool) (hp : s.phase = .pwait) (ha : s.eaddr.toNat + 8 ≤ poolBytes s.lastPpn)
      (hh : handlerTurn s (faultRequest s .l0) = .completes .done p) : Row s (resumePerm (afterTurn s p))
  | t9 (c : TermCause) (p : Pool) (hp : s.phase = .pwait) (ha : s.eaddr.toNat + 8 ≤ poolBytes s.lastPpn)
      (hh : handlerTurn s (faultRequest s .l0) = .completes (.terminate c) p) :
      Row s (raiseTerminate c (afterTurn s p))
  | t9abort (r : AbortReason) (p : Pool) (hp : s.phase = .pwait) (ha : s.eaddr.toNat + 8 ≤ poolBytes s.lastPpn)
      (hh : handlerTurn s (faultRequest s .l0) = .aborts r p) : Row s (raiseAbort r (afterTurn s p))
  | t10 (hp : s.phase = .xfer) (hi : inPool s.lastPpn (getPpn s.entry) = false) :
      Row s (raiseAbort .frameRange s)
  | t11 (hp : s.phase = .xfer) (hi : inPool s.lastPpn (getPpn s.entry) = true) (ho : s.opc = .read) :
      Row s (respond ((memRead1 s.pool.mem (dataAddr (getPpn s.entry) s.va).toNat).setWidth 64)
        (note (.load (dataAddr (getPpn s.entry) s.va)) s))
  | t12 (hp : s.phase = .xfer) (hi : inPool s.lastPpn (getPpn s.entry) = true) (ho : s.opc = .write) :
      Row s (respond 0 (storeByte (dataAddr (getPpn s.entry) s.va) s))

/-- The COW handler looks at the entry the walker evaluates at level 0. -/
theorem cowEntryAddr_faultRequest (s : State) (l : Level) :
    cowEntryAddr (faultRequest s l) = (entryAt s.table (indexAt s.va .l0)).toNat := by
  have h1 := (indexAt s.va .l0).isLt
  have h2 := s.table.isLt
  simp only [cowEntryAddr, faultRequest]
  rw [BitVec.toNat_add, frameWord_toNat, BitVec.toNat_mul, entryAt_toNat, BitVec.toNat_setWidth]
  simp
  omega

/-- With a table of the pool, only an outside handler can leave the walker waiting. -/
theorem handlerTurn_stuck {s : State} {l : Level} {f : Fault} (ht : inPool s.lastPpn s.table = true)
    (h : handlerTurn s (faultRequest s l) = .stuck f) : s.handler = .agent := by
  cases hh : s.handler <;> simp only [handlerTurn, hh] at h
  · cases h
  · exact absurd h (cowHandler_ends (by rw [cowEntryAddr_faultRequest]; exact entryAt_populated ht _) _ _)
  · rfl

theorem Level.below_none {l : Level} (h : l.below = none) : l = .l0 := by
  cases l <;> simp_all [Level.below]

theorem Level.below_ne_l2 {l m : Level} (h : l.below = some m) : m ≠ .l2 := by
  cases l <;> simp_all [Level.below] <;> (subst h; decide)

theorem walkRow_row (s : State) (hp : s.phase = .walk) : Row s (walkRow s) := by
  unfold walkRow
  cases ht : inPool s.lastPpn s.table
  · exact .t3 hp ht
  · rw [if_pos rfl]
    change Row s (walkDecide (fetched s))
    unfold walkDecide
    cases hf : isFault (fetched s).entry (fetched s).level
    · rw [if_neg (by simp)]
      cases hl : (fetched s).level.below with
      | some l => exact .t4c l hp ht hf hl
      | none =>
        have hl0 : s.level = .l0 := Level.below_none hl
        cases ho : (fetched s).opc with
        | walk => exact .t4d hp ht hf hl0 ho
        | read => exact .t4e hp ht hf hl0 (by rw [show s.opc = .read from ho]; decide)
        | write => exact .t4e hp ht hf hl0 (by rw [show s.opc = .write from ho]; decide)
    · rw [if_pos rfl]
      cases hn : (fetched s).faulted
      · rw [if_neg (by simp)]; exact .t4a hp ht hf hn
      · rw [if_pos rfl]; exact .t4b hp ht hf hn

/-- The inversion of the phase machine: outside `IDLE`, a step is a row. -/
theorem phaseStep_row {s t : State} (h : phaseStep s = .ok t) (hp : s.phase ≠ .idle) : Row s t := by
  unfold phaseStep at h
  cases hphase : s.phase <;> simp only [hphase] at h
  · exact absurd hphase hp
  · cases h; exact walkRow_row s hphase
  · unfold awaitHandler at h
    split at h <;> cases h
    · exact .t5 _ hphase ‹_›
    · exact .t6 _ _ hphase ‹_›
    · exact .t6abort _ _ hphase ‹_›
  · unfold permRow at h
    split at h
    · cases h
    · cases h; exact .t7a hphase ‹_›
    · cases hn : s.faulted <;> simp only [hn] at h <;> cases h
      · exact .t7b hphase ‹_› hn
      · exact .t7c hphase ‹_› hn
  · unfold pwaitRow at h
    split_ifs at h with ha
    rw [populated, decide_eq_true_eq] at ha
    unfold awaitHandler at h
    split at h <;> cases h
    · exact .t8 _ hphase ha ‹_›
    · exact .t9 _ _ hphase ha ‹_›
    · exact .t9abort _ _ hphase ha ‹_›
  · unfold xferRow at h
    cases hi : inPool s.lastPpn (getPpn s.entry) <;> simp only [hi] at h
    · cases h; exact .t10 hphase hi
    · cases ho : s.opc <;> simp only [ho] at h <;> cases h
      · exact .t11 hphase hi ho
      · exact .t12 hphase hi ho
  · cases h

/-- One row after another, while the access is in progress. -/
theorem runRows_succ {n : Nat} {s t : State} (hi : s.phase ≠ .idle) (hh : s.phase ≠ .halt) (h : phaseStep s = .ok t) :
    runRows (n + 1) s = runRows n t := by
  cases hp : s.phase <;> simp_all [runRows]

theorem runRows_stuck {n : Nat} {s : State} {f : Fault} (h : phaseStep s = .error f) : runRows n s = s := by
  cases n with
  | zero => rfl
  | succ n => cases hp : s.phase <;> simp_all [runRows]

theorem runRows_idle {n : Nat} {s : State} (h : s.phase = .idle) : runRows n s = s := by
  cases n <;> simp [runRows, h]

theorem runRows_halt {n : Nat} {s : State} (h : s.phase = .halt) : runRows n s = s := by
  cases n <;> simp [runRows, h]

/-- What every row keeps, a whole access keeps. -/
theorem runRows_keeps {P : State → Prop} (h : ∀ s t, P s → s.phase ≠ .idle → s.phase ≠ .halt → Row s t → P t) :
    ∀ n s, P s → P (runRows n s) := by
  intro n
  induction n with
  | zero => exact fun s hs => hs
  | succ n ih =>
    intro s hs
    by_cases hi : s.phase = .idle
    · rwa [runRows_idle hi]
    · by_cases hh : s.phase = .halt
      · rwa [runRows_halt hh]
      · cases ht : phaseStep s with
        | error f => rwa [runRows_stuck ht]
        | ok t => rw [runRows_succ hi hh ht]; exact ih t (h s t hs hi hh (phaseStep_row ht hi))

end Sys2Proof.Machine
end

