-- ==== Sys2Proof/Laws/Encoding.lean ====
section
/-! SUPPORT. The fields of a request word (spec/30_encoding.md R84). -/

namespace Sys2Proof

/-- The operation number that was packed. -/
@[simp] theorem op_pack (o : Byte) (a b : Word) : Req.op (Req.pack o a b) = o := by
  refine BitVec.eq_of_getLsbD_eq fun i hi => ?_
  rw [Req.op, Req.pack, BitVec.getLsbD_extractLsb', BitVec.getLsbD_append, BitVec.getLsbD_append]
  simp [hi, show ¬128 + i < 64 by omega, show ¬128 + i - 64 < 64 by omega, show 128 + i - 64 - 64 = i by omega]

/-- The first operand that was packed. -/
@[simp] theorem a_pack (o : Byte) (a b : Word) : Req.a (Req.pack o a b) = a := by
  refine BitVec.eq_of_getLsbD_eq fun i hi => ?_
  rw [Req.a, Req.pack, BitVec.getLsbD_extractLsb', BitVec.getLsbD_append, BitVec.getLsbD_append]
  simp [hi]

/-- The second operand that was packed. -/
@[simp] theorem b_pack (o : Byte) (a b : Word) : Req.b (Req.pack o a b) = b := by
  refine BitVec.eq_of_getLsbD_eq fun i hi => ?_
  rw [Req.b, Req.pack, BitVec.getLsbD_extractLsb', BitVec.getLsbD_append]
  simp [hi]

/-- The request of a table word of the full width is the word itself. -/
theorem tableReq_full (r : Req) : Machine.tableReq 136 r.toNat = r := by
  refine BitVec.eq_of_toNat_eq ?_
  have := r.isLt
  rw [Machine.tableReq, BitVec.toNat_ofNat]
  omega

end Sys2Proof
end

