-- ==== Sys2Proof/Laws/Invariant.lean ====
section
/-! SUPPORT. The invariant of Safety.lean, operation by operation. -/

namespace Sys2Proof.Machine

theorem TermCause.cause_ne_none (c : TermCause) : c.cause ≠ .none := by cases c <;> decide

theorem TermCause.cause_ne_abort (c : TermCause) : c.cause ≠ .abort := by cases c <;> decide

/-- Memory after reset is in canonical form. -/
theorem State.reset_memory_wf : Memory.wf State.reset.pool.mem :=
  ⟨List.Pairwise.nil, by simp [State.reset, Pool.reset]⟩

/-- The pool after reset is in canonical form, whatever `MAX_PAGES` is. -/
theorem Pool.reset_ok (last : Ppn) : Pool.reset.Ok last := by
  refine ⟨State.reset_memory_wf, ?_, ?_, ?_, ⟨List.Pairwise.nil, ?_⟩, ?_⟩ <;> simp [Pool.reset]

/-- Nothing is recorded as long as the machine has not halted. -/
theorem State.Inv.running {s : State} (h : s.Inv) (hp : s.phase ≠ .halt) :
    s.fatal = false ∧ s.cause = .none ∧ s.abortReason = .none ∧ s.diagValid = false := by
  have hf : s.fatal = false := by
    cases e : s.fatal
    · rfl
    · exact absurd (h.fatalHalt.1 e) hp
  have hc : s.cause = .none := by
    by_contra e
    have := h.causeFatal.1 e
    simp_all
  refine ⟨hf, hc, ?_, ?_⟩
  · by_contra e
    have := h.reasonAbort.1 e
    simp_all
  · cases e : s.diagValid
    · rfl
    · have := h.diagFatal e
      simp_all

/-- An abort of a running machine keeps the invariant. -/
theorem State.Inv.abort {s : State} (h : s.Inv) (hp : s.phase ≠ .halt) {r : AbortReason} (hr : r ≠ .none) :
    (raiseAbort r s).Inv := by
  obtain ⟨-, -, -, hd⟩ := h.running hp
  constructor <;> simp [h.poolOk, hr, hd]
  exact h.rootInside

/-- A termination of a running machine keeps the invariant. -/
theorem State.Inv.terminate {s : State} (h : s.Inv) (hp : s.phase ≠ .halt) (c : TermCause) :
    (raiseTerminate c s).Inv := by
  obtain ⟨-, -, hr, hd⟩ := h.running hp
  constructor <;> simp [h.poolOk, hr, hd, c.cause_ne_none, c.cause_ne_abort]
  exact h.rootInside

/-- The fatal fault of a running machine keeps the invariant. -/
theorem State.Inv.fatalFault {s : State} (h : s.Inv) (hp : s.phase ≠ .halt) (va : Word) (l : Level) (e : Word) :
    (raiseFatal va l e s).Inv := by
  obtain ⟨-, -, hr, -⟩ := h.running hp
  constructor <;> simp [h.poolOk, hr]
  exact h.rootInside

/-- A response keeps the invariant. -/
theorem State.Inv.respond {s : State} (h : s.Inv) (hp : s.phase ≠ .halt) (r : Word) : (respond r s).Inv := by
  obtain ⟨hf, hc, hr, hd⟩ := h.running hp
  constructor <;> simp [h.poolOk, hf, hc, hr, hd]
  exact h.rootInside

/-- Recording an event keeps the invariant. -/
theorem State.Inv.note {s : State} (h : s.Inv) (e : Event) : (note e s).Inv :=
  { h with }

/-- Another pool in canonical form keeps the invariant. -/
theorem State.Inv.withPool {s : State} (h : s.Inv) {p : Pool} (hp : p.Ok s.lastPpn) (ts : List AgentTurn) :
    State.Inv { s with pool := p, agentTurns := ts } :=
  { h with poolOk := hp }

theorem State.Inv.fetched {s : State} (h : s.Inv) (hp : s.phase = .walk) : (fetched s).Inv := by
  obtain ⟨hf, hc, hr, hd⟩ := h.running (by simp [hp])
  constructor <;> simp [Machine.fetched, h.poolOk, hf, hc, hr, hd, hp]
  · exact h.rootInside
  · exact h.busySilent (by simp [hp]) (by simp [hp])

/-- The reason of an operand check is a reason. -/
theorem levelOperand_error {b : Word} {r : AbortReason} (h : levelOperand b = .error r) : r = .badLevel := by
  simp only [levelOperand] at h
  split_ifs at h; exact (Except.error.inj h).symm

theorem indexOperand_error {b : Word} {r : AbortReason} (h : indexOperand b = .error r) : r = .badIndex := by
  simp only [indexOperand] at h
  split_ifs at h; exact (Except.error.inj h).symm

theorem ppnOperand_error {b : Word} {r : AbortReason} (h : ppnOperand b = .error r) : r = .ppnRange := by
  simp only [ppnOperand] at h
  split_ifs at h; exact (Except.error.inj h).symm

theorem poolPpnOperand_error {last : Ppn} {a : Word} {r : AbortReason} (h : poolPpnOperand last a = .error r) :
    r = .frameRange := by
  simp only [poolPpnOperand] at h
  split_ifs at h; exact (Except.error.inj h).symm

/-- A row keeps the invariant. -/
theorem Row.inv {s t : State} (h : s.Inv) (hr : Row s t) : t.Inv := by
  have turn : ∀ l, (handlerTurn s (faultRequest s l)).Sat (Pool.Ok s.lastPpn) := fun l => handlerTurn_ok h.poolOk _
  cases hr with
  | t3 hp ht => exact h.abort (by simp [hp]) (by decide)
  | t4a hp ht hf hn =>
    obtain ⟨hf, hc, hr, hd⟩ := h.running (by simp [hp])
    have hb := h.busySilent (by simp [hp]) (by simp [hp])
    constructor <;> simp [Machine.fetched, h.poolOk, hf, hc, hr, hd, hb, ht]
    exact h.rootInside
  | t4b hp ht hf hn => exact (h.fetched hp).fatalFault (by simp [Machine.fetched, hp]) _ _ _
  | t4c l hp ht hf hl =>
    obtain ⟨hf, hc, hr, hd⟩ := h.running (by simp [hp])
    have hb := h.busySilent (by simp [hp]) (by simp [hp])
    constructor <;> simp [Machine.fetched, h.poolOk, hf, hc, hr, hd, hb]
    exact h.rootInside
  | t4d hp ht hf hl ho => exact (h.fetched hp).respond (by simp [Machine.fetched, hp]) _
  | t4e hp ht hf hl ho =>
    obtain ⟨hf, hc, hr, hd⟩ := h.running (by simp [hp])
    have hb := h.busySilent (by simp [hp]) (by simp [hp])
    constructor <;> simp [Machine.fetched, h.poolOk, hf, hc, hr, hd, hb, ht, hl, ho]
    exact h.rootInside
  | t5 p hp hh =>
    have hk := turn s.level
    rw [hh] at hk
    obtain ⟨hf, hc, hr, hd⟩ := h.running (by simp [hp])
    have hb := h.busySilent (by simp [hp]) (by simp [hp])
    constructor <;> simp [afterTurn, hf, hc, hr, hd, hb]
    · exact hk
    · exact h.rootInside
  | t6 c p hp hh =>
    have hk := turn s.level
    rw [hh] at hk
    exact (h.withPool hk _).terminate (by simp [hp]) c
  | t6abort r p hp hh =>
    have hk := turn s.level
    rw [hh] at hk
    exact (h.withPool hk.1 _).abort (by simp [hp]) hk.2
  | t7a hp hb' =>
    obtain ⟨hf, hc, hr, hd⟩ := h.running (by simp [hp])
    have hb := h.busySilent (by simp [hp]) (by simp [hp])
    have ho : s.opc ≠ .walk := fun e => (h.walkRounds e).1 hp
    have hl := h.leafRound (by simp [hp])
    constructor <;> simp [h.poolOk, hf, hc, hr, hd, hb, ho, hl, h.tableInside (by simp [hp])]
    exact h.rootInside
  | t7b hp hb' hn =>
    obtain ⟨hf, hc, hr, hd⟩ := h.running (by simp [hp])
    have hb := h.busySilent (by simp [hp]) (by simp [hp])
    have ho : s.opc ≠ .walk := fun e => (h.walkRounds e).1 hp
    have hl := h.leafRound (by simp [hp])
    constructor <;> simp [h.poolOk, hf, hc, hr, hd, hb, ho, hl, h.tableInside (by simp [hp])]
    exact h.rootInside
  | t7c hp hb' hn => exact h.fatalFault (by simp [hp]) _ _ _
  | t8 p hp ha' hh =>
    have hk := turn .l0
    rw [hh] at hk
    obtain ⟨hf, hc, hr, hd⟩ := h.running (by simp [hp])
    have hb := h.busySilent (by simp [hp]) (by simp [hp])
    have ho : s.opc ≠ .walk := fun e => (h.walkRounds e).2.1 hp
    have hl := h.leafRound (by simp [hp])
    constructor <;> simp [afterTurn, hf, hc, hr, hd, hb, ho, hl, h.tableInside (by simp [hp])]
    · exact hk
    · exact h.rootInside
  | t9 c p hp ha' hh =>
    have hk := turn .l0
    rw [hh] at hk
    exact (h.withPool hk _).terminate (by simp [hp]) c
  | t9abort r p hp ha' hh =>
    have hk := turn .l0
    rw [hh] at hk
    exact (h.withPool hk.1 _).abort (by simp [hp]) hk.2
  | t10 hp hi => exact h.abort (by simp [hp]) (by decide)
  | t11 hp hi ho => exact (h.note _).respond (by simp [hp]) _
  | t12 hp hi ho =>
    have hw := h.poolOk.write1 (dataAddr_populated hi s.va) s.wdata
    exact ((h.withPool hw s.agentTurns).note _).respond (by simp [hp]) 0

/-- An access keeps the invariant. -/
theorem runAccess_inv {s : State} (h : s.Inv) (hp : s.phase = .idle) (hb : s.rsp = none) (op : AccessOp) (va b : Word) :
    (runAccess op va b s).Inv := by
  refine runRows_keeps (P := State.Inv) (fun s t hs _ _ hr => hr.inv hs) _ _ ?_
  unfold startAccess
  split_ifs
  · obtain ⟨hf, hc, hr, hd⟩ := h.running (by simp [hp])
    constructor <;> simp [h.poolOk, hf, hc, hr, hd, hb]
    exact h.rootInside
  · exact h.abort (by simp [hp]) (by decide)

end Sys2Proof.Machine
end

