-- ==== Sys2Proof/Laws/PerInstr.lean ====
section
/-! SUPPORT. Statements for every instruction, one lemma a constructor. -/

namespace Sys2Proof.Laws.EncodeOp

/-- The encoder puts the operation number of spec/30_encoding.md R88 into the field `OP` of R84. -/
def Statement (i : Instr) : Prop := Req.op (encode i) = i.op

theorem pteVget (entry : Word) : Statement (.pteVget entry) := op_pack _ _ _

theorem pteVset (entry : Word) : Statement (.pteVset entry) := op_pack _ _ _

theorem pteVclr (entry : Word) : Statement (.pteVclr entry) := op_pack _ _ _

theorem pteRget (entry : Word) : Statement (.pteRget entry) := op_pack _ _ _

theorem pteRset (entry : Word) : Statement (.pteRset entry) := op_pack _ _ _

theorem pteRclr (entry : Word) : Statement (.pteRclr entry) := op_pack _ _ _

theorem pteWget (entry : Word) : Statement (.pteWget entry) := op_pack _ _ _

theorem pteWset (entry : Word) : Statement (.pteWset entry) := op_pack _ _ _

theorem pteWclr (entry : Word) : Statement (.pteWclr entry) := op_pack _ _ _

theorem pteDget (entry : Word) : Statement (.pteDget entry) := op_pack _ _ _

theorem pteDset (entry : Word) : Statement (.pteDset entry) := op_pack _ _ _

theorem pteDclr (entry : Word) : Statement (.pteDclr entry) := op_pack _ _ _

theorem ptePpnget (entry : Word) : Statement (.ptePpnget entry) := op_pack _ _ _

theorem ptePpnset (entry ppn : Word) : Statement (.ptePpnset entry ppn) := op_pack _ _ _

theorem navIndex (vaddr level : Word) : Statement (.navIndex vaddr level) := op_pack _ _ _

theorem navEntryat (table index : Word) : Statement (.navEntryat table index) := op_pack _ _ _

theorem navF2p (frame : Word) : Statement (.navF2p frame) := op_pack _ _ _

theorem navP2f (ppn : Word) : Statement (.navP2f ppn) := op_pack _ _ _

theorem mmuWalk (vaddr b : Word) : Statement (.mmuWalk vaddr b) := op_pack _ _ _

theorem mmuRead (vaddr b : Word) : Statement (.mmuRead vaddr b) := op_pack _ _ _

theorem mmuWrite (vaddr value : Word) : Statement (.mmuWrite vaddr value) := op_pack _ _ _

theorem mmuSetroot (frame : Word) : Statement (.mmuSetroot frame) := op_pack _ _ _

theorem mmuGetroot : Statement .mmuGetroot := op_pack _ _ _

end Sys2Proof.Laws.EncodeOp
end

