-- ==== Sys2Proof/Laws/Step.lean ====
section
/-! SUPPORT. All that the command port, a host's procedure and a step can do (spec/30_encoding.md R96,
60_exceptions.md R216, 70_reset_and_hazards.md R247). -/

namespace Sys2Proof.Machine

/-- A request in `IDLE` is taken. -/
theorem accepting_idle {k : State → State} {s : State} (h : s.phase = .idle) :
    accepting k s = .next (k { s with rsp := none, events := [] }) := by
  simp [accepting, h]

/-- A request in any other phase waits. -/
theorem accepting_busy {k : State → State} {s : State} (h : s.phase ≠ .idle) : accepting k s = .next s := by
  cases hp : s.phase <;> simp_all [accepting]

/-- What `accepting` answers is a next state. -/
theorem accepting_cases {k : State → State} {s t : State} (h : accepting k s = .next t) :
    (s.phase = .idle ∧ t = k { s with rsp := none, events := [] }) ∨ (s.phase ≠ .idle ∧ t = s) := by
  by_cases hp : s.phase = .idle
  · rw [accepting_idle hp] at h; cases h; exact .inl ⟨hp, rfl⟩
  · rw [accepting_busy hp] at h; cases h; exact .inr ⟨hp, rfl⟩

/-- A checked operand is used, or its reason aborts. -/
theorem withOperand_cases {α : Type} (x : Except AbortReason α) (k : α → State → State) (s : State) :
    (∃ v, x = .ok v ∧ withOperand x k s = k v s) ∨ ∃ r, x = .error r ∧ withOperand x k s = raiseAbort r s := by
  cases x with
  | ok v => exact .inl ⟨v, rfl, rfl⟩
  | error r => exact .inr ⟨r, rfl, rfl⟩

/-- A frame operand's frame number, or the reason why there is none: alignment first. -/
theorem frameOperand_aligned {last : Ppn} {a : Word} (h : a.extractLsb' 0 12 = 0) :
    frameOperand last a = poolPpnOperand last (a >>> 12) := by
  rw [frameOperand, if_pos h]

/-- What an environment procedure of the host comes to. -/
theorem hostProcedure_cases {α : Type} {r : PoolResult α} {value : α → Option Nat} {s t : State}
    (h : hostProcedure r value s = .next t) :
    (∃ v p, r = .ok v p ∧ t = { s with pool := p, hostVal := value v })
      ∨ ∃ w p, r = .stop w p ∧ t = raiseStop w { s with pool := p, hostVal := none } := by
  cases r with
  | ok v p => cases h; exact .inl ⟨v, p, rfl, rfl⟩
  | stop w p => cases h; exact .inr ⟨w, p, rfl, rfl⟩
  | fault f => cases h

/-- A host that ends the process halts the machine with the condition it names (60_exceptions.md R216). -/
theorem hostMove_terminate (c : TermCause) (s : State) :
    hostMove (.terminate c) s = .next (raiseTerminate c { s with hostVal := none }) := rfl

/-- A reset that cuts off a handler call uses up that call's turn. -/
theorem turnsAfterReset_waiting {s : State} (h : s.phase = .hwait ∨ s.phase = .pwait) :
    turnsAfterReset s = turnsAfter s := by
  rcases h with h | h <;> simp [turnsAfterReset, h]

/-- Any other reset leaves the turns. -/
theorem turnsAfterReset_idle {s : State} (h : s.phase ≠ .hwait) (h' : s.phase ≠ .pwait) :
    turnsAfterReset s = s.agentTurns := by
  cases hp : s.phase <;> simp_all [turnsAfterReset]

/-- All that a step can do: a reset, nothing for want of a host action, a host action, or a row of the access. -/
theorem step_cases {s t : State} (h : step s = .next t) :
    (∃ q, s.hostQueue = .reset :: q ∧ t = resetMachine { s with hostQueue := q })
      ∨ (s.phase = .idle ∧ s.hostQueue = [] ∧ t = s)
      ∨ (∃ a q, s.phase = .idle ∧ s.hostQueue = a :: q ∧ a ≠ .reset ∧ hostMove a { s with hostQueue := q } = .next t)
      ∨ (s.phase ≠ .idle ∧ s.phase ≠ .halt ∧ phaseStep s = .ok t) := by
  have walker : walkerOrHost s = .next t → (∀ q, s.hostQueue ≠ .reset :: q) →
      (s.phase = .idle ∧ s.hostQueue = [] ∧ t = s)
      ∨ (∃ a q, s.phase = .idle ∧ s.hostQueue = a :: q ∧ a ≠ .reset ∧ hostMove a { s with hostQueue := q } = .next t)
      ∨ (s.phase ≠ .idle ∧ s.phase ≠ .halt ∧ phaseStep s = .ok t) := by
    intro h hq
    by_cases hi : s.phase = .idle
    · unfold walkerOrHost at h
      split at h
      · split at h
        · cases h; exact .inl ⟨hi, ‹_›, rfl⟩
        · rename_i a q hl
          exact .inr (.inl ⟨a, q, hi, hl, fun e => hq q (e ▸ hl), h⟩)
      · simp_all
      · simp_all
    · by_cases hh : s.phase = .halt
      · simp only [walkerOrHost, hh] at h; cases h
      · refine .inr (.inr ⟨hi, hh, ?_⟩)
        cases hp : s.phase <;> simp_all [walkerOrHost] <;> (split at h <;> simp_all)
  unfold step machineTurn at h
  split at h
  · cases h; exact .inl ⟨_, ‹_›, rfl⟩
  · exact .inr (walker h (by assumption))

/-- A step in which the host issues a request is that request. -/
theorem step_request {s : State} {r : Req} {q : List HostAction} (hp : s.phase = .idle)
    (hq : s.hostQueue = .request r :: q) : step s = runRequest r { s with hostQueue := q } := by
  simp [step, machineTurn, walkerOrHost, hp, hq, hostMove]

/-- An access begins with nothing answered or recorded. -/
theorem runAccess_idle {s : State} (h : s.phase = .idle) (op : AccessOp) (va b : Word) :
    accepting (runAccess op va b) s =
      .next (runRows accessRows (startAccess op va b { s with rsp := none, events := [] })) := by
  rw [accepting_idle h]; rfl

end Sys2Proof.Machine
end

