-- ==== Sys2Proof/Tests/Slice0.lean ====
section
/-! SUPPORT. Tests of one step each, with results from spec/95_test_vectors.md, request words written out from
spec/30_encoding.md, ill-formed operands, and a witness of the hypotheses of every statement. -/

namespace Sys2Proof.Tests

open Sys2Proof.Machine

/-! ## Helpers -/

/-- The next state of an outcome, if it is one. -/
def nextOf : Host.Outcome State Fault Refusal → Option State
  | .next t => some t
  | .fault _ => none
  | .refused _ => none

/-- The response after a request. -/
def answer (o : Host.Outcome State Fault Refusal) : Option (Option Word) := (nextOf o).map (·.rsp)

/-- The terminal status word after a request (R95). -/
def status (o : Host.Outcome State Fault Refusal) : Option Byte := (nextOf o).map State.statusWord

/-- The state after reset with `MAX_PAGES` = 16. -/
def idle16 : State := { State.reset with lastPpn := 15 }

/-- The memory of the example map of 43_translator.md with `0x2A` at `0x3ABC`; `leaf` are the non-zero bytes of the leaf
entry at `0x2018`. -/
def exampleMem (leaf : Memory) : Memory :=
  [(0x0008, 0x01), (0x000A, 0x10), (0x1010, 0x01), (0x1012, 0x20)] ++ leaf ++ [(0x3ABC, 0x2A)]

/-- The pool of the example map: frames 0 to 3 allocated. -/
def examplePool (leaf : Memory) : Pool where
  mem      := exampleMem leaf
  allocSet := [0, 1, 2, 3]
  live     := 4
  refcnt   := []

/-- The example map with another leaf entry. -/
def exampleLeaf (leaf : Memory) : State :=
  { idle16 with rootSet := true, pool := examplePool leaf }

/-- The leaf entry `0x300007` (`V R W`). -/
def leafRW : Memory := [(0x2018, 0x07), (0x201A, 0x30)]
/-- The leaf entry `0x300003` (`V R`). -/
def leafR : Memory := [(0x2018, 0x03), (0x201A, 0x30)]
/-- The leaf entry `0x300005` (`V W`). -/
def leafW : Memory := [(0x2018, 0x05), (0x201A, 0x30)]
/-- The leaf entry `0x300103` (`V R D`), as the lazy fork leaves it. -/
def leafRD : Memory := [(0x2018, 0x03), (0x2019, 0x01), (0x201A, 0x30)]

/-- The example map. -/
def example16 : State := exampleLeaf leafRW

/-- The address the example map maps: indices 1, 2, 3, offset `0xABC`. -/
def va : Word := 0x40403ABC

/-- The example map after a lazy fork, seen by the COW handler: the leaf write-protected and marked, its count `n`. -/
def sharedPool (n : Nat) : Pool := { examplePool leafRD with refcnt := [(3, n)] }

/-- The fault request of the example map's leaf. -/
def leafRequest : FaultRequest := { virtualAddress := va, level := .l0, pageTable := 0x2000 }

/-- A walker in the middle of a write on the example map, in the given phase. -/
def writing (p : Phase) (leaf : Memory) (e : Word) (faulted : Bool) : State :=
  { exampleLeaf leaf with
    phase := p, opc := .write, va := va, wdata := 0x77, level := .l0, table := 2, eaddr := 0x2018, entry := e
    faulted := faulted }

/-- A walker about to evaluate a level on the example map. -/
def walking (l : Level) (t : Ppn) (op : AccessOp) (faulted : Bool) : State :=
  { example16 with phase := .walk, opc := op, va := va, level := l, table := t, faulted := faulted }

/-! ## Ill-formed operands -/

theorem test_wf_ppnset : Instr.wellFormed (.ptePpnset 0 0x100000000000) = false := by decide
theorem test_wf_level : Instr.wellFormed (.navIndex 0 3) = false := by decide
theorem test_wf_index : Instr.wellFormed (.navEntryat 0x2000 512) = false := by decide
theorem test_wf_table_misaligned : Instr.wellFormed (.navEntryat 0x2008 0) = false := by decide
theorem test_wf_frame_misaligned : Instr.wellFormed (.navF2p 0x3ABC) = false := by decide
theorem test_wf_frame_high_bits : Instr.wellFormed (.navF2p 0x0100000000000000) = false := by decide
theorem test_wf_p2f : Instr.wellFormed (.navP2f 0x100000000000) = false := by decide
theorem test_wf_setroot : Instr.wellFormed (.mmuSetroot 0x4008) = false := by decide
theorem test_wf_good : Instr.wellFormed (.navEntryat 0xF000 511) = true := by decide

/-! ## Request words, `OP A B` of 30_encoding.md R84 and R88 -/

theorem test_decode_pteVget :
    decode 0x00_0000000000300007_FFFFFFFFFFFFFFFF = .ok (.pteVget 0x300007) := by decide
theorem test_decode_pteVset :
    decode 0x01_0000000000100000_0000000000000000 = .ok (.pteVset 0x100000) := by decide
theorem test_decode_pteVclr :
    decode 0x02_0000000000300007_0000000000000000 = .ok (.pteVclr 0x300007) := by decide
theorem test_decode_pteRget :
    decode 0x04_0123456789AB02F8_0000000000000000 = .ok (.pteRget 0x0123456789AB02F8) := by decide
theorem test_decode_pteRset :
    decode 0x05_0000000000300001_0000000000000000 = .ok (.pteRset 0x300001) := by decide
theorem test_decode_pteRclr :
    decode 0x06_0000000000300007_0000000000000000 = .ok (.pteRclr 0x300007) := by decide
theorem test_decode_pteWget :
    decode 0x08_0000000000300103_0000000000000000 = .ok (.pteWget 0x300103) := by decide
theorem test_decode_pteWset :
    decode 0x09_0000000000300003_0000000000000000 = .ok (.pteWset 0x300003) := by decide
theorem test_decode_pteWclr :
    decode 0x0A_0000000000300007_FFFFFFFFFFFFFFFF = .ok (.pteWclr 0x300007) := by decide
theorem test_decode_pteDget :
    decode 0x0C_0000000000300103_0000000000000000 = .ok (.pteDget 0x300103) := by decide
theorem test_decode_pteDset :
    decode 0x0D_0000000000300003_0000000000000000 = .ok (.pteDset 0x300003) := by decide
theorem test_decode_pteDclr :
    decode 0x0E_0000000000300103_0000000000000000 = .ok (.pteDclr 0x300103) := by decide
theorem test_decode_ptePpnget :
    decode 0x10_0000000000300007_0000000000000000 = .ok (.ptePpnget 0x300007) := by decide
theorem test_decode_ptePpnset :
    decode 0x11_0000000000000007_0000000000000003 = .ok (.ptePpnset 7 3) := by decide
theorem test_decode_navIndex :
    decode 0x20_0000000040403ABC_0000000000000003 = .ok (.navIndex 0x40403ABC 3) := by decide
theorem test_decode_navEntryat :
    decode 0x21_0000000000002000_0000000000000003 = .ok (.navEntryat 0x2000 3) := by decide
theorem test_decode_navF2p :
    decode 0x22_0000000000003000_0000000000000000 = .ok (.navF2p 0x3000) := by decide
theorem test_decode_navP2f :
    decode 0x23_000000000000000F_0000000000000000 = .ok (.navP2f 15) := by decide
theorem test_decode_mmuWalk :
    decode 0x30_0000000040403ABC_0000000000000000 = .ok (.mmuWalk 0x40403ABC 0) := by decide
theorem test_decode_mmuRead :
    decode 0x31_FFFFFF8040403ABC_0000000000000000 = .ok (.mmuRead 0xFFFFFF8040403ABC 0) := by decide
theorem test_decode_mmuWrite :
    decode 0x32_0000000040403ABC_00000000000001FF = .ok (.mmuWrite 0x40403ABC 0x1FF) := by decide
theorem test_decode_mmuSetroot :
    decode 0x33_0000000000004000_0000000000000000 = .ok (.mmuSetroot 0x4000) := by decide
theorem test_decode_mmuGetroot :
    decode 0x34_0000000000000000_0000000000000000 = .ok (.mmuGetroot) := by decide
theorem test_decode_reserved_03 : decode 0x03_0000000000000000_0000000000000000 = .error (.reservedOp 0x03) := by decide
theorem test_decode_reserved_12 : decode 0x12_0000000000000000_0000000000000000 = .error (.reservedOp 0x12) := by decide
theorem test_decode_reserved_24 : decode 0x24_0000000000000000_0000000000000000 = .error (.reservedOp 0x24) := by decide
theorem test_decode_reserved_35 : decode 0x35_0000000000000000_0000000000000000 = .error (.reservedOp 0x35) := by decide
theorem test_decode_reserved_FF : decode 0xFF_0000000000000000_0000000000000000 = .error (.reservedOp 0xFF) := by decide
theorem test_encode_word : encode (.mmuWrite 0x40403ABC 1) = 0x32_0000000040403ABC_0000000000000001 := by decide
theorem test_table_word : decodeTableWord 136 0x34_0000000000000000_0000000000000000 = some .mmuGetroot := by decide

/-! ## One step each, 95_test_vectors.md section 2 -/

/-- The step takes a placed request from the state after reset. -/
theorem test_step_from_reset :
    answer (step (State.reset.withFetchWord 136 0x02_0000000000300007_0000000000000000)) = some (some 0x300006) := by
  decide
/-- F11, by a step. -/
theorem test_step_read_without_root :
    status (step (State.reset.withFetchWord 136 0x31_0000000040403ABC_0000000000000000)) = some 0xC7 := by decide
/-- F16. -/
theorem test_step_illegal_op :
    status (step (State.reset.withFetchWord 136 (3 * 2 ^ 128))) = some 0xC1 := by decide

/-- The table of 2.1. -/
theorem test_pteVget :
    answer (exec (.pteVget 0x0123456789AB02F8) idle16) =
      some (some 0) := by decide
/-- The table of 2.1. -/
theorem test_pteVset :
    answer (exec (.pteVset 0x0123456789AB02F8) idle16) =
      some (some 0x0123456789AB02F9) := by decide
/-- The table of 2.1. -/
theorem test_pteVclr :
    answer (exec (.pteVclr 0xFFFFFFFFFFFFFFFF) idle16) =
      some (some 0xFFFFFFFFFFFFFFFE) := by decide
/-- The table of 2.1. -/
theorem test_pteRget :
    answer (exec (.pteRget 0x300103) idle16) =
      some (some 1) := by decide
/-- The table of 2.1. -/
theorem test_pteRset :
    answer (exec (.pteRset 0x0123456789AB02F8) idle16) =
      some (some 0x0123456789AB02FA) := by decide
/-- The table of 2.1. -/
theorem test_pteRclr :
    answer (exec (.pteRclr 0x300007) idle16) =
      some (some 0x300005) := by decide
/-- The table of 2.1. -/
theorem test_pteWget :
    answer (exec (.pteWget 0x300103) idle16) =
      some (some 0) := by decide
/-- The table of 2.1. -/
theorem test_pteWset :
    answer (exec (.pteWset 0x300103) idle16) =
      some (some 0x300107) := by decide
/-- S2. -/
theorem test_pteWclr :
    answer (exec (.pteWclr 0x300007) idle16) =
      some (some 0x300003) := by decide
/-- The table of 2.1. -/
theorem test_pteDget :
    answer (exec (.pteDget 0x300103) idle16) =
      some (some 1) := by decide
/-- S2. -/
theorem test_pteDset :
    answer (exec (.pteDset 0x300003) idle16) =
      some (some 0x300103) := by decide
/-- The table of 2.1. -/
theorem test_pteDclr :
    answer (exec (.pteDclr 0xFFFFFFFFFFFFFFFF) idle16) =
      some (some 0xFFFFFFFFFFFFFEFF) := by decide
/-- The table of 2.1. -/
theorem test_ptePpnget :
    answer (exec (.ptePpnget 0x0123456789AB02F8) idle16) =
      some (some 0x123456789A) := by decide
/-- The table of 2.1: the old number is replaced, not ORed. -/
theorem test_ptePpnset :
    answer (exec (.ptePpnset 0xABCDE00000000107 0x12345) idle16) =
      some (some 0x0000001234500107) := by decide
/-- The first illegal PPN. -/
theorem test_ptePpnset_range :
    status (exec (.ptePpnset 0 0x100000000000) idle16) =
      some 0xC4 := by decide
/-- The table of 2.2. -/
theorem test_navIndex :
    answer (exec (.navIndex 0x123456789ABCDEF0 1) idle16) =
      some (some 213) := by decide
/-- All 64 bits of `B` are compared. -/
theorem test_navIndex_level :
    status (exec (.navIndex 0x40403ABC 0x100000000) idle16) =
      some 0xC5 := by decide
/-- The last entry of the last frame. -/
theorem test_navEntryat :
    answer (exec (.navEntryat 0xF000 511) idle16) =
      some (some 0xFFF8) := by decide
/-- Range before index. -/
theorem test_navEntryat_order :
    status (exec (.navEntryat 0x10000 600) idle16) =
      some 0xC3 := by decide
/-- 2.2. -/
theorem test_navF2p :
    answer (exec (.navF2p 0xF000) idle16) =
      some (some 15) := by decide
/-- Alignment first. -/
theorem test_navF2p_order :
    status (exec (.navF2p 0x10ABC) idle16) =
      some 0xC2 := by decide
/-- 2.2. -/
theorem test_navP2f :
    answer (exec (.navP2f 15) idle16) =
      some (some 0xF000) := by decide
/-- 2.2. -/
theorem test_navP2f_range :
    status (exec (.navP2f 16) idle16) =
      some 0xC3 := by decide
/-- T1: three fetches, no handler call. -/
theorem test_mmuWalk :
    (nextOf (exec (.mmuWalk va 0) example16)).map (fun t => (t.rsp, t.events)) =
      some (some 0x2018, [.fetch 0x0008, .fetch 0x1010, .fetch 0x2018]) := by decide
/-- F1: the diagnostic record, packed. -/
theorem test_mmuWalk_fault :
    (nextOf (exec (.mmuWalk 0x40404ABC 0) example16)).map (fun t => (t.statusWord, t.diagWord)) =
      some (0x90, 0x40000000101012AF0000000000000) := by decide
/-- T3 with the address of T4. -/
theorem test_mmuRead :
    answer (exec (.mmuRead 0xFFFFFF8040403ABC 0) example16) =
      some (some 0x2A) := by decide
/-- F3. -/
theorem test_mmuRead_denied :
    (nextOf (exec (.mmuRead va 0) (exampleLeaf leafW))).map (fun t => (t.statusWord, t.diagFlags)) =
      some (0x90, 0b0101) := by decide
/-- T5. -/
theorem test_mmuWrite :
    (nextOf (exec (.mmuWrite va 0x1FF) example16)).map (fun t => (t.rsp, memRead1 t.pool.mem 0x3ABC)) =
      some (some 0, 0xFF) := by decide
/-- 44_fork_cow_env.md R193 by hand, frame 4 being free: the byte goes to the private copy. -/
theorem test_mmuWrite_cow :
    (nextOf (exec (.mmuWrite va 2) { exampleLeaf leafRD with handler := .cow, pool := sharedPool 2 })).map (fun t =>
      (t.rsp, memRead8 t.pool.mem 0x2018, memRead1 t.pool.mem 0x3ABC, memRead1 t.pool.mem 0x4ABC, refcntOf t.pool 3)) =
      some (some 0, 0x400007, 0x2A, 2, 1) := by decide
/-- 43_translator.md R162. -/
theorem test_mmuSetroot :
    (nextOf (exec (.mmuSetroot 0x4000) idle16)).map (fun t => (t.rsp, t.root, t.rootSet)) =
      some (some 0, 4, true) := by decide
/-- F15. -/
theorem test_mmuSetroot_order :
    status (exec (.mmuSetroot 0x10008) idle16) =
      some 0xC2 := by decide
/-- 43_translator.md R163. -/
theorem test_mmuGetroot :
    answer (exec .mmuGetroot { example16 with root := 4 }) =
      some (some 0x4000) := by decide
/-- F12. -/
theorem test_mmuGetroot_unset :
    status (exec .mmuGetroot idle16) =
      some 0xC7 := by decide

/-! ## Environment and pseudo-operations, 95_test_vectors.md 2.1 and 2.6 -/

/-- `PTE.ENC 5, 1, 1, 0, 1`. -/
theorem test_pteEnc : pteEnc ⟨5, true, true, false, true⟩ = 0x500103 := by decide
/-- `NAV.ENTRY 0x0, 0x40403ABC, 2`. -/
theorem test_navEntry : navEntry 15 0x0 va 2 = .ok 0x0008 := by decide
/-- E2: the frame freed last is the lowest free one. -/
theorem test_alloc :
    allocFrame 15 { examplePool [] with allocSet := [0, 1, 3], live := 3 } =
      .ok 2 { examplePool [] with allocSet := [0, 1, 2, 3], live := 4 } := by decide
/-- E3. -/
theorem test_free_twice :
    freeFrame 15 0x2000 { examplePool [] with allocSet := [0, 1, 3], live := 3 } =
      .stop (.abort .envAssert) { examplePool [] with allocSet := [0, 1, 3], live := 3 } := by decide
/-- E9. -/
theorem test_fork_precondition :
    forkCopyOnWrite 6 true 0 (examplePool leafRW) = .stop (.terminate .outOfMemory) (examplePool leafRW) := by decide
/-- 92_eei_decisions.md D24 and 30_encoding.md R95 by hand: `FATAL` = 1, `CAUSE` = 3. -/
theorem test_host_init_failure :
    status (step { example16 with hostQueue := [.terminate .initFailure] }) = some 0xB0 := by decide
/-- Log 21: a reset in `HWAIT` uses up the turn of the call it cuts off; one in `HALT` uses up none. -/
theorem test_reset_turns :
    [Phase.hwait, Phase.halt].map (fun p => (nextOf (step { example16 with
      phase := p, handler := .agent, agentTurns := [⟨[], 0⟩], hostQueue := [.reset] })).map (·.agentTurns.length)) =
      [some 0, some 1] := by decide

/-! ## Witnesses: for every statement of Certificates/Slice0/Obligations.lean with hypotheses, a state and operands that
meet them; where a statement has several clauses, one witness for each, at a boundary of its range. -/

/-- What `wf`, `Ok` and `Inv` ask of the example map. -/
theorem examplePool_ok : (examplePool leafRW).Ok 15 := by constructor <;> decide
theorem sharedPool_ok : (sharedPool 2).Ok 15 := by constructor <;> decide
theorem example16_inv : example16.Inv where
  poolOk      := examplePool_ok
  fatalHalt   := by decide
  causeFatal  := by decide
  reasonAbort := by decide
  diagFatal   := by decide
  rootInside  := by decide
  walkRounds  := by decide
  tableInside := by decide
  leafRound   := by decide
  waitFaulted := by decide
  busySilent  := by decide

/-- The example map maps `va` (`WalkAnswersTheLeafEntryAddress` and those that use `Mapped`). -/
theorem example16_mapped : Mapped example16 va := by constructor <;> decide

/-- A state whose next step lets the host issue a request. -/
def asking (r : Req) : State := { example16 with hostQueue := [.request r] }

theorem witness_PteGetAnswersTheFlagBit : State.reset.phase = .idle := by decide
theorem witness_PteSetSetsTheFlagBit : example16.phase = .idle := by decide
theorem witness_PteClearClearsTheFlagBit : example16.phase = .idle := by decide
theorem witness_PtePpngetAnswersTheFrameNumber : example16.phase = .idle := by decide
theorem witness_PtePpnsetReplacesTheFieldOrAborts :
    idle16.phase = .idle ∧ (0x00000FFFFFFFFFFF : Word).toNat < 2 ^ 44 ∧ 2 ^ 44 ≤ (0x0000100000000000 : Word).toNat := by
  decide
theorem witness_FlagsAreIndependent :
    PteFlag.read ≠ .valid ∧ ∀ i ∈ [3, 7, 9, 19], (3 ≤ i ∧ i ≤ 7) ∨ (9 ≤ i ∧ i ≤ 19) := by decide
theorem witness_PpnRoundTrips :
    (0x00000FFFFFFFFFFF : Word).toNat < 2 ^ 44 ∧ 2 ^ 44 ≤ (0x0000100000000000 : Word).toNat := by decide
theorem witness_NavIndexAnswersTheSlice :
    idle16.phase = .idle ∧ (2 : Word).toNat ≤ 2 ∧ 2 < (3 : Word).toNat := by decide
/-- One table and index for each clause: misaligned, above the pool, index 512, index 511. -/
theorem witness_NavEntryatLocatesTheEntry :
    idle16.phase = .idle ∧ (0x2001 : Word).extractLsb' 0 12 ≠ 0
    ∧ ((0x10000 : Word).extractLsb' 0 12 = 0 ∧ maxPages idle16.lastPpn ≤ ((0x10000 : Word) >>> 12).toNat)
    ∧ ((0xF000 : Word).extractLsb' 0 12 = 0 ∧ ((0xF000 : Word) >>> 12).toNat < maxPages idle16.lastPpn
      ∧ 511 < (512 : Word).toNat ∧ (511 : Word).toNat ≤ 511) := by decide
theorem witness_NavF2pAnswersTheFrameNumber :
    idle16.phase = .idle ∧ (0x3001 : Word).extractLsb' 0 12 ≠ 0
    ∧ ((0x10000 : Word).extractLsb' 0 12 = 0 ∧ maxPages idle16.lastPpn ≤ ((0x10000 : Word) >>> 12).toNat)
    ∧ ((0xF000 : Word).extractLsb' 0 12 = 0 ∧ ((0xF000 : Word) >>> 12).toNat < maxPages idle16.lastPpn) := by decide
theorem witness_NavP2fAnswersTheFrame :
    idle16.phase = .idle ∧ maxPages idle16.lastPpn ≤ (16 : Word).toNat
    ∧ (15 : Word).toNat < maxPages idle16.lastPpn := by decide
/-- Both answers of `navEntry`: an entry, a bad level, a frame out of range. -/
theorem witness_NavEntryIsIndexThenEntryat :
    idle16.phase = .idle ∧ navEntry idle16.lastPpn 0x2000 va 0 = .ok 0x2018
    ∧ navEntry idle16.lastPpn 0x2000 va 3 = .error .badLevel
    ∧ navEntry idle16.lastPpn 0x10000 va 2 = .error .frameRange := by decide
theorem witness_SetrootMakesTheRootOrAborts :
    idle16.phase = .idle ∧ (0x4008 : Word).extractLsb' 0 12 ≠ 0
    ∧ ((0x10000 : Word).extractLsb' 0 12 = 0 ∧ maxPages idle16.lastPpn ≤ ((0x10000 : Word) >>> 12).toNat)
    ∧ ((0xF000 : Word).extractLsb' 0 12 = 0 ∧ ((0xF000 : Word) >>> 12).toNat < maxPages idle16.lastPpn) := by decide
theorem witness_GetrootAnswersTheRootOrAborts :
    example16.phase = .idle ∧ example16.rootSet = true ∧ idle16.phase = .idle ∧ idle16.rootSet = false := by decide
theorem witness_AccessWithoutRootAborts : State.reset.phase = .idle ∧ State.reset.rootSet = false := by decide
theorem witness_WalkAnswersTheLeafEntryAddress : example16.phase = .idle ∧ Mapped example16 va :=
  ⟨rfl, example16_mapped⟩
theorem witness_ReadAnswersTheTranslatedByte :
    example16.phase = .idle ∧ Mapped example16 va ∧ (entry0 example16 va).getLsbD 1 = true
    ∧ (getPpn (entry0 example16 va)).toNat < maxPages example16.lastPpn :=
  ⟨rfl, example16_mapped, by decide, by decide⟩
theorem witness_WriteStoresOneByte :
    example16.phase = .idle ∧ Mapped example16 va ∧ (entry0 example16 va).getLsbD 2 = true
    ∧ (getPpn (entry0 example16 va)).toNat < maxPages example16.lastPpn ∧ Memory.wf example16.pool.mem :=
  ⟨rfl, example16_mapped, by decide, by decide, examplePool_ok.memWf⟩
/-- A legal path, an invalid leaf, a readable leaf, a leaf that cannot be read, a leaf that cannot be written. -/
theorem witness_NullHandlerAccessCompletesIffMapped :
    example16.phase = .idle ∧ example16.handler = .null ∧ Mapped example16 va ∧ ¬Mapped example16 0x40404ABC
    ∧ (getRead (entry0 example16 va) = true ∧ getWrite (entry0 example16 va) = true
      ∧ inPool example16.lastPpn (getPpn (entry0 example16 va)) = true)
    ∧ getRead (entry0 (exampleLeaf leafW) va) = false ∧ getWrite (entry0 (exampleLeaf leafR) va) = false :=
  ⟨rfl, rfl, example16_mapped, fun h => absurd h.leaf (by decide), by decide, by decide, by decide⟩
/-- One state for each row: table out of range; first and second fault; descent from level 2; leaf of a walk; leaf of a
write. -/
theorem witness_PhaseMachineWalkRows :
    ((walking .l2 16 .read false).phase = .walk
      ∧ maxPages (walking .l2 16 .read false).lastPpn ≤ (walking .l2 16 .read false).table.toNat)
    ∧ (walking .l2 0 .read false).table.toNat < maxPages (walking .l2 0 .read false).lastPpn
    ∧ (0x0008 : Pa).toNat = 0 * 4096 + 8 * (indexAt va .l2).toNat
    ∧ memRead8 example16.pool.mem (0x0008 : Pa).toNat = 0x100001
    ∧ isFault 0x100001 .l2 = false ∧ Level.num .l2 = Level.num .l1 + 1
    ∧ (isFault (memRead8 example16.pool.mem ((15 : Ppn).toNat * 4096 + 24)) .l0 = true
      ∧ (walking .l0 15 .read false).faulted = false ∧ (walking .l0 15 .read true).faulted = true)
    ∧ (isFault (memRead8 example16.pool.mem 0x2018) .l0 = false
      ∧ (walking .l0 2 .walk false).opc = .walk ∧ (walking .l0 2 .write false).opc ≠ .walk) := by decide
theorem witness_PhaseMachineWaitRows :
    (∃ s p, s.phase = .hwait ∧ handlerTurn s (faultRequest s s.level) = .completes .done p)
    ∧ (∃ s p, s.phase = .hwait
      ∧ handlerTurn s (faultRequest s s.level) = .completes (.terminate .initFailure) p)
    ∧ (∃ s p, s.phase = .pwait ∧ s.eaddr.toNat + 8 ≤ poolBytes s.lastPpn
      ∧ handlerTurn s (faultRequest s .l0) = .completes .done p)
    ∧ (∃ s p, s.phase = .pwait ∧ s.eaddr.toNat + 8 ≤ poolBytes s.lastPpn
      ∧ handlerTurn s (faultRequest s .l0) = .completes (.terminate .badAddress) p) :=
  ⟨⟨writing .hwait [] 0 true, examplePool [], rfl, rfl⟩,
    ⟨{ writing .hwait [] 0 true with handler := .agent, agentTurns := [⟨[], 0xB⟩] }, examplePool [], rfl, rfl⟩,
    ⟨{ writing .pwait leafR 0x300003 true with eaddr := 0xFFF8 }, examplePool leafR, rfl, by decide, rfl⟩,
    ⟨{ writing .pwait leafR 0x300003 true with handler := .agent, agentTurns := [⟨[], 0x9⟩] },
      examplePool leafR, rfl, by decide, rfl⟩⟩
/-- The three outcomes of a permission check, then the last frame and the first frame number beyond the pool. -/
theorem witness_PhaseMachineTransferRows :
    ((writing .perm leafRW 0x300007 false).phase = .perm ∧ (writing .perm leafRW 0x300007 false).opc = .write
      ∧ true = (writing .perm leafRW 0x300007 false).entry.getLsbD 2)
    ∧ (false = (writing .perm leafR 0x300003 false).entry.getLsbD 2
      ∧ (writing .perm leafR 0x300003 false).faulted = false ∧ (writing .perm leafR 0x300003 true).faulted = true)
    ∧ (false = ({ writing .perm leafW 0x300005 false with opc := .read } : State).entry.getLsbD 1)
    ∧ ((writing .xfer leafRW 0x1000007 false).phase = .xfer
      ∧ maxPages (15 : Ppn) ≤ ((writing .xfer leafRW 0x1000007 false).entry.extractLsb' 20 44).toNat)
    ∧ (((writing .xfer leafRW 0xF00007 false).entry.extractLsb' 20 44).toNat < maxPages (15 : Ppn)
      ∧ (0xFABC : Pa).toNat = ((0xF00007 : Word).extractLsb' 20 44).toNat * 4096 + va.toNat % 4096) := by decide
theorem witness_SequentialFormAgrees : example16.phase = .idle := by decide
theorem witness_AccessEventBounds :
    example16.phase = .idle ∧ answer (exec (.mmuRead va 0) example16) = some (some 0x2A)
    ∧ answer (exec (.mmuRead 0 0) example16) = some none := by decide
/-- The three endings: an answer, a fatal fault, an outside handler with no turn left. -/
theorem witness_EveryAccessEnds :
    example16.phase = .idle ∧ answer (exec (.mmuWalk va 0) example16) = some (some 0x2018)
    ∧ (nextOf (exec (.mmuWalk 0 0) example16)).map (·.phase) = some .halt
    ∧ (nextOf (exec (.mmuWalk 0 0) { example16 with handler := .agent })).map (·.phase) = some .hwait := by decide
/-- Row T4b on an entry that is invalid. -/
theorem witness_FatalFaultNeedsARetry :
    ∃ t, phaseStep (walking .l0 15 .read true) = .ok t ∧ (walking .l0 15 .read true).diagValid = false
      ∧ t.diagValid = true :=
  ⟨walkRow (walking .l0 15 .read true), rfl, rfl, by decide⟩
theorem witness_UnusedAddressBitsDoNotMatter :
    example16.phase = .idle ∧ va.extractLsb' 0 39 = (0xFFFFFF8040403ABC : Word).extractLsb' 0 39 := by decide
/-- Two leaf entries alike in the named bits, each fetched in `WALK`; the latch in `PERM` and in `XFER`. -/
theorem witness_UnnamedEntryBitsDoNotMatter :
    ((0x300007 : Word) ^^^ 0x3FFFFF) &&& 0xFFFFFFFFFFF00007 = 0
    ∧ (walking .l0 2 .read false).phase = .walk
    ∧ 0x300007 = memRead8 (exampleMem leafRW) (entryAt 2 (indexAt va .l0)).toNat
    ∧ 0x3FFFFF =
      memRead8 (exampleMem [(0x2018, 0xFF), (0x2019, 0xFF), (0x201A, 0x3F)]) (entryAt 2 (indexAt va .l0)).toNat
    ∧ (∃ t, phaseStep (walking .l0 2 .read false) = .ok t)
    ∧ ((writing .perm leafRW 0x300007 false).phase = .perm ∧ (writing .perm leafRW 0x300007 false).entry = 0x300007)
    ∧ (writing .xfer leafRW 0x300007 false).phase = .xfer :=
  ⟨by decide, rfl, by decide, by decide, ⟨_, rfl⟩, ⟨rfl, rfl⟩, rfl⟩
/-- The four parts: with a response; a byte that differs under the null handler. -/
theorem witness_AccessFrame :
    example16.phase = .idle ∧ example16.handler = .null ∧ answer (exec (.mmuWrite va 1) example16) = some (some 0)
    ∧ (nextOf (exec (.mmuWrite va 1) example16)).map (fun t => memRead1 t.pool.mem 0x3ABC) = some 1
    ∧ memRead1 example16.pool.mem 0x3ABC = 0x2A := by decide
theorem witness_HaltedAccessStoresNothing :
    example16.phase = .idle ∧ example16.handler = .null
    ∧ answer (exec (.mmuWrite va 1) (exampleLeaf leafR)) = some none := by decide
theorem witness_RequestWaitsWhileBusy :
    (writing .pwait leafR 0x300003 true).phase ≠ .idle ∧ ({ idle16 with phase := .halt } : State).phase ≠ .idle := by
  decide
/-- The reserved ranges at their ends, and a host that issues such a request. -/
theorem witness_ReservedNumbersAbort :
    (∀ o ∈ [(0x03 : Byte), 0x0F, 0x12, 0x1F, 0x24, 0x2F, 0x35, 0xFF], ∀ i, decode (Req.pack o 0 0) ≠ .ok i)
    ∧ (asking (Req.pack 0x35 0 0)).phase = .idle
    ∧ (asking (Req.pack 0x35 0 0)).hostQueue = .request (Req.pack 0x35 0 0) :: [] := by
  refine ⟨?_, rfl, rfl⟩
  intro o ho i
  simp only [List.mem_cons, List.not_mem_nil, or_false] at ho
  rcases ho with rfl | rfl | rfl | rfl | rfl | rfl | rfl | rfl <;> simp [decode]
theorem witness_StepRunsTheDecodedRequest :
    (asking (encode (.mmuWrite va 1))).phase = .idle
    ∧ (asking (encode (.mmuWrite va 1))).hostQueue = .request (encode (.mmuWrite va 1)) :: []
    ∧ decode (encode (.mmuWrite va 1)) = .ok (.mmuWrite va 1) := by decide
/-- A word with all its fields, one without `B`, the one without operands. -/
theorem witness_EncodeInvertsDecode :
    decode (Req.pack 0x11 7 3) = .ok (.ptePpnset 7 3) ∧ decode (Req.pack 0x33 0x4000 5) = .ok (.mmuSetroot 0x4000)
    ∧ decode (Req.pack 0x34 1 2) = .ok .mmuGetroot := by decide
theorem witness_EveryStepKeepsTheInvariant : example16.Inv ∧ ∃ t, step example16 = .next t :=
  ⟨example16_inv, example16, rfl⟩
theorem witness_ParametersNeverChange : ∃ t, step (asking (encode .mmuGetroot)) = .next t :=
  ⟨{ example16 with rsp := some 0 }, rfl⟩
theorem witness_OnlySetrootWritesTheRoot :
    ∃ t, step (asking (encode (.mmuSetroot 0x4000))) = .next t ∧ t.root ≠ (asking (encode (.mmuSetroot 0x4000))).root :=
  ⟨{ example16 with root := 4, rsp := some 0 }, rfl, by decide⟩
/-- In `HALT` with nothing to do, and with a reset to come. -/
theorem witness_HaltIsForGood :
    ({ idle16 with phase := .halt } : State).phase = .halt
    ∧ (∀ q, ({ idle16 with phase := .halt } : State).hostQueue ≠ .reset :: q)
    ∧ ∃ t, step { idle16 with phase := .halt, hostQueue := [.reset] } = .next t :=
  ⟨rfl, (fun q h => by cases h), resetMachine { idle16 with phase := .halt }, rfl⟩
/-- A reset that cuts off a handler call, and one that does not. -/
theorem witness_ResetRestoresTheResetValues :
    (({ writing .hwait [] 0 true with hostQueue := [.reset] } : State).hostQueue = .reset :: []
      ∧ ({ writing .hwait [] 0 true with hostQueue := [.reset] } : State).phase = .hwait)
    ∧ (({ idle16 with phase := .halt, hostQueue := [.reset] } : State).hostQueue = .reset :: []
      ∧ ({ idle16 with phase := .halt, hostQueue := [.reset] } : State).phase ≠ .hwait
      ∧ ({ idle16 with phase := .halt, hostQueue := [.reset] } : State).phase ≠ .pwait) := by decide
theorem witness_EntryReadAfterWrite :
    Memory.wf (exampleMem leafRW) ∧ (7 : Nat) < 8 ∧ ((0x2017 : Nat) < 0x2018 ∨ 0x2018 + 8 ≤ (0x2017 : Nat))
    ∧ ((0x2020 : Nat) < 0x2018 ∨ 0x2018 + 8 ≤ (0x2020 : Nat)) := by decide
/-- A full pool, and one with one frame left. -/
theorem witness_AllocTakesTheLowestFreeFrame :
    (examplePool leafRW).live = maxPages (3 : Ppn)
    ∧ (examplePool leafRW).live < maxPages (15 : Ppn) ∧ (examplePool leafRW).Ok 15 ∧ (examplePool leafRW).Counted :=
  ⟨by decide, by decide, examplePool_ok, rfl⟩
/-- One frame for each clause: misaligned, beyond the pool, never allocated, allocated; `LIVE` = 4 and `LIVE` = 0. -/
theorem witness_FreeZeroesAndReleasesTheFrame :
    (0x2001 : Word).extractLsb' 0 12 ≠ 0
    ∧ ((0x10000 : Word).extractLsb' 0 12 = 0 ∧ maxPages (15 : Ppn) ≤ (0x10000 : Word).toNat / 4096)
    ∧ ((0xF000 : Word).extractLsb' 0 12 = 0 ∧ (0xF000 : Word).toNat / 4096 < maxPages (15 : Ppn)
      ∧ (0xF000 : Word).toNat / 4096 ∉ (examplePool leafRW).allocSet)
    ∧ ((0x3000 : Word).extractLsb' 0 12 = 0 ∧ (0x3000 : Word).toNat / 4096 < maxPages (15 : Ppn)
      ∧ (0x3000 : Word).toNat / 4096 ∈ (examplePool leafRW).allocSet)
    ∧ 0 < (examplePool leafRW).live ∧ ({ examplePool leafRW with live := 0 } : Pool).live = 0 := by decide
/-- A pool of one zero frame, from which a frame can be taken and to which the frame can be given back. -/
theorem witness_AllocatorInvariantIsKept :
    ({ Pool.reset with allocSet := [0], live := 1 } : Pool).Ok 15
    ∧ ({ Pool.reset with allocSet := [0], live := 1 } : Pool).Counted
    ∧ ({ Pool.reset with allocSet := [0], live := 1 } : Pool).FreeZero
    ∧ (∃ f q, allocFrame 15 { Pool.reset with allocSet := [0], live := 1 } = .ok f q)
    ∧ ∃ q, freeFrame 15 0 { Pool.reset with allocSet := [0], live := 1 } = .ok () q :=
  ⟨by constructor <;> decide, rfl, fun a _ => rfl, ⟨1, _, by rfl⟩, ⟨_, by rfl⟩⟩
/-- Vector E9: four frames of seven are in use when the host forks. -/
def forking (a : HostAction) : State := { example16 with lastPpn := 6, hostQueue := [a] }
theorem witness_ForkPrecondition :
    (forking .forkCopy).phase = .idle ∧ maxPages (forking .forkCopy).lastPpn < 2 * (forking .forkCopy).pool.live
    ∧ (forking .forkCopy).hostQueue = .forkCopy :: []
    ∧ (forking .forkCopyOnWrite).hostQueue = .forkCopyOnWrite :: [] := by decide
/-- An empty root table is copied to frame 1. -/
theorem witness_EagerForkLeavesTheOriginalAlone :
    ({ Pool.reset with allocSet := [0], live := 1 } : Pool).Ok 15
    ∧ ∃ q, forkCopy 15 true 0 { Pool.reset with allocSet := [0], live := 1 } = .ok 1 q :=
  ⟨by constructor <;> decide, { Pool.reset with allocSet := [0, 1], live := 2 }, by decide +kernel⟩
/-- The example map's leaf table, frame 2, frame 4 being free: a writable leaf, one that is not, one that names no
frame. -/
theorem witness_LazyForkSharesALeafTable :
    ((examplePool leafRW).Ok 15 ∧ (0x300007 : Word).getLsbD 2 = true ∧ (getPpn 0x300007).toNat < maxPages (15 : Ppn))
    ∧ ((0x1000007 : Word).getLsbD 2 = true ∧ maxPages (15 : Ppn) ≤ (getPpn 0x1000007).toNat)
    ∧ (0x300003 : Word).getLsbD 2 = false
    ∧ ((2 : Ppn).toNat ∈ (examplePool leafRW).allocSet ∧ ∃ q, allocFrame 15 (examplePool leafRW) = .ok 4 q)
    ∧ (∀ i : Index, (memRead8 (exampleMem leafRW) (entryAt 2 i).toNat).getLsbD 0 = true →
      (memRead8 (exampleMem leafRW) (entryAt 2 i).toNat).getLsbD 2 = true →
      (getPpn (memRead8 (exampleMem leafRW) (entryAt 2 i).toNat)).toNat < maxPages (15 : Ppn))
    ∧ memRead8 (exampleMem [(0x2018, 0x07), (0x201B, 0x01)]) (entryAt 2 3).toNat = 0x1000007 :=
  ⟨⟨examplePool_ok, by decide⟩, by decide, by decide, ⟨by decide, _, rfl⟩, by decide +kernel, by decide⟩
/-- Level 1; the leaf's address; and for each clause an entry: invalid, out of range, count 0, count 1. -/
theorem witness_CowHandlerCases :
    ({ leafRequest with level := .l1 } : FaultRequest).level ≠ .l0 ∧ leafRequest.level = .l0
    ∧ 0x2018 = (leafRequest.pageTable + 8 * (indexAt leafRequest.virtualAddress .l0).setWidth 64).toNat
    ∧ 0x2018 + 8 ≤ poolBytes 15
    ∧ (memRead8 (examplePool []).mem 0x2018).getLsbD 0 = false
    ∧ (memRead8 (examplePool [(0x2018, 0x03), (0x201B, 0x01)]).mem 0x2018 = 0x1000003
      ∧ maxPages (15 : Ppn) ≤ (getPpn 0x1000003).toNat)
    ∧ (memRead8 (examplePool leafRD).mem 0x2018 = 0x300103 ∧ (getPpn 0x300103).toNat < maxPages (15 : Ppn)
      ∧ refcntOf (examplePool leafRD) (getPpn 0x300103) = 0)
    ∧ ((memRead8 (sharedPool 1).mem 0x2018).getLsbD 0 = true ∧ refcntOf (sharedPool 1) (getPpn 0x300103) = 1) := by
  decide
/-- Count 2 with a frame to be had, and, with `MAX_PAGES` = 4, with none. -/
theorem witness_CowHandlerCopiesASharedFrame :
    (sharedPool 2).Ok 15 ∧ leafRequest.level = .l0
    ∧ 0x2018 = (leafRequest.pageTable + 8 * (indexAt leafRequest.virtualAddress .l0).setWidth 64).toNat
    ∧ 0x2018 % 8 = 0 ∧ 0x2018 + 8 ≤ poolBytes 15 ∧ 0x2018 / 4096 ∈ (sharedPool 2).allocSet
    ∧ memRead8 (sharedPool 2).mem 0x2018 = 0x300103 ∧ (0x300103 : Word).getLsbD 0 = true
    ∧ (getPpn 0x300103).toNat < maxPages (15 : Ppn) ∧ 1 < refcntOf (sharedPool 2) (getPpn 0x300103)
    ∧ (∃ q, allocFrame 15 (sharedPool 2) = .ok 4 q)
    ∧ (sharedPool 2).Ok 3 ∧ 0x2018 + 8 ≤ poolBytes 3 ∧ (getPpn 0x300103).toNat < maxPages (3 : Ppn)
    ∧ (sharedPool 2).live = maxPages (3 : Ppn) :=
  ⟨sharedPool_ok, by decide, by decide, by decide, by decide, by decide, by decide, by decide, by decide,
    by decide, ⟨_, rfl⟩, by constructor <;> decide, by decide, by decide, by decide⟩
theorem witness_CompletionWords :
    (7 : BitVec 4).toNat < 8 ∧ (8 : BitVec 4).toNat = 8 ∧ 12 ≤ (12 : BitVec 4).toNat := by decide
/-- The state of vector E6, with `MAX_PAGES` = 4 and no frame left. -/
def exhausted : State :=
  { writing .pwait leafRD 0x300103 true with lastPpn := 3, handler := .cow, pool := sharedPool 2 }
theorem exhausted_inv : exhausted.Inv where
  poolOk      := by constructor <;> decide
  fatalHalt   := by decide
  causeFatal  := by decide
  reasonAbort := by decide
  diagFatal   := by decide
  rootInside  := by decide
  walkRounds  := by decide
  tableInside := by decide
  leafRound   := by decide
  waitFaulted := by decide
  busySilent  := by decide
theorem witness_HandlerTerminationHaltsWithItsCause :
    exhausted.Inv ∧ exhausted.phase = .pwait ∧ exhausted.handler = .cow
    ∧ exhausted.pool.live = maxPages exhausted.lastPpn ∧ memRead8 exhausted.pool.mem exhausted.eaddr.toNat = 0x300103
    ∧ (0x300103 : Word).getLsbD 0 = true ∧ (getPpn 0x300103).toNat < maxPages exhausted.lastPpn
    ∧ 1 < refcntOf exhausted.pool (getPpn 0x300103) :=
  ⟨exhausted_inv, by decide⟩
theorem witness_WellFormedCodecNeverAborts :
    idle16.phase = .idle ∧ (Instr.navIndex va 2).op.toNat ≤ 0x20 ∧ (Instr.navIndex va 2).wellFormed = true
    ∧ (Instr.navIndex va 3).wellFormed = false ∧ (Instr.ptePpnset 0 0x100000000000).wellFormed = false := by decide
/-- A host that reports an initialization failure. -/
theorem witness_HostMayEndTheProcess :
    (forking (.terminate .initFailure)).phase = .idle
    ∧ (forking (.terminate .initFailure)).hostQueue = .terminate .initFailure :: [] := by decide
/-- A root table, frame 0, whose entry 1 names it. -/
def loopPool : Pool := { Pool.reset with mem := [(0x0008, 0x01)], allocSet := [0], live := 1 }
/-- The host about to fork it. -/
def loopForking (a : HostAction) : State := { idle16 with rootSet := true, pool := loopPool, hostQueue := [a] }
theorem witness_ForkIntoACycleDoesNotEnd :
    loopPool.Ok 15 ∧ (0 : Ppn).toNat ∈ loopPool.allocSet ∧ (∃ q, allocFrame 15 loopPool = .ok 1 q)
    ∧ (∀ j < (1 : Index), (memRead8 loopPool.mem (entryAt 0 j).toNat).getLsbD 0 = false)
    ∧ ((1 : Word) = memRead8 loopPool.mem (entryAt 0 1).toNat ∧ (1 : Word).getLsbD 0 = true
      ∧ (getPpn 1).toNat < maxPages (15 : Ppn) ∧ getPpn 1 ∈ [(0 : Ppn)])
    ∧ ((loopForking .forkCopy).phase = .idle ∧ (loopForking .forkCopy).hostQueue = .forkCopy :: []
      ∧ (loopForking .forkCopyOnWrite).hostQueue = .forkCopyOnWrite :: []
      ∧ loopPool.Counted ∧ 2 * loopPool.live ≤ maxPages (15 : Ppn) ∧ (loopForking .forkCopy).rootSet = true)
    ∧ forkCopy 15 true 0 loopPool = .fault .forkCycle := by
  refine ⟨by constructor <;> decide, by decide, ⟨_, rfl⟩, fun j hj => ?_, by decide,
    ⟨rfl, rfl, rfl, rfl, by decide, rfl⟩, by decide +kernel⟩
  obtain rfl : j = 0 := BitVec.eq_of_toNat_eq (by have := BitVec.lt_def.1 hj; simp at this ⊢; omega)
  decide

end Sys2Proof.Tests
end

section
/-! SUPPORT. What an accepted request, a host action and a step come to, and what each of them keeps: the invariant
(spec/10_state.md R20 to R28), the parameters (R34) and the root (R23). -/

namespace Sys2Proof.Machine

/-! The invariant, update by update. -/

/-- The reset state satisfies the invariant whatever the parameters and the inputs are that a reset keeps. -/
theorem reset_inv (last : Ppn) (handler : Handler) (turns : List AgentTurn) (queue : List HostAction) :
    State.Inv { State.reset with
      lastPpn := last, handler := handler, agentTurns := turns, hostQueue := queue } := by
  constructor <;> simp [State.reset, Pool.reset_ok]

theorem resetMachine_inv (s : State) : (resetMachine s).Inv :=
  reset_inv _ _ _ _

theorem State.Inv.withQueue {s : State} (h : s.Inv) (q : List HostAction) : State.Inv { s with hostQueue := q } :=
  { h with }

theorem State.Inv.withHostVal {s : State} (h : s.Inv) {p : Pool} (hp : p.Ok s.lastPpn) (v : Option Nat) :
    State.Inv { s with pool := p, hostVal := v } :=
  { h with poolOk := hp }

/-- A root that is a frame of the pool keeps the invariant. -/
theorem State.Inv.newRoot {s : State} (h : s.Inv) (hp : s.phase ≠ .halt) {f : Ppn} (hf : inPool s.lastPpn f = true) :
    (setRoot f s).Inv :=
  State.Inv.respond (s := { s with root := f, rootSet := true }) { h with rootInside := fun _ => hf } hp 0

/-- A procedure that ends the process keeps the invariant. -/
theorem State.Inv.stop {s : State} (h : s.Inv) (hp : s.phase ≠ .halt) {w : Stop} (hw : w.Named) :
    (raiseStop w s).Inv := by
  cases w with
  | terminate c => exact h.terminate hp c
  | abort r => exact h.abort hp hw

/-- A procedure of the host keeps the invariant if it keeps the pool in canonical form. -/
theorem hostProcedure_inv {α : Type} {r : PoolResult α} {Q : α → Prop} {value : α → Option Nat} {s t : State}
    (h : s.Inv) (hp : s.phase ≠ .halt) (hr : r.Sat (Pool.Ok s.lastPpn) Q) (ht : hostProcedure r value s = .next t) :
    t.Inv := by
  rcases hostProcedure_cases ht with ⟨v, p, rfl, rfl⟩ | ⟨w, p, rfl, rfl⟩
  · exact h.withHostVal hr.1 _
  · exact (h.withHostVal hr.1 none).stop hp hr.2

/-! Accepting a request. -/

/-- The state that has taken a request: nothing is answered or recorded yet (30_encoding.md R96). -/
def accepted (s : State) : State := { s with rsp := none, events := [] }

theorem accepting_accepted {k : State → State} {s : State} (h : s.phase = .idle) :
    accepting k s = .next (k (accepted s)) :=
  accepting_idle h

theorem State.Inv.accept {s : State} (h : s.Inv) : (accepted s).Inv :=
  { h with busySilent := fun _ _ => rfl }

/-- All that the instruction `i` can come to in a state that has accepted it: an answer, an abort with a reason, a new
root for `MMU.SETROOT`, or an access. -/
inductive Accepted (i : Instr) (s : State) : State → Prop where
  | answers (r : Word) : Accepted i s (respond r s)
  | aborts (r : AbortReason) (hr : r ≠ .none) : Accepted i s (raiseAbort r s)
  | setsRoot (a : Word) (f : Ppn) (hi : i = .mmuSetroot a) (hf : inPool s.lastPpn f = true) :
      Accepted i s (setRoot f s)
  | accesses (op : AccessOp) (va b : Word) : Accepted i s (runAccess op va b s)

/-- An operand's check aborts with a reason, or its value is used. -/
theorem Accepted.withOperand {i : Instr} {s : State} {α : Type} {x : Except AbortReason α} {k : α → State → State}
    (herr : ∀ r, x = .error r → r ≠ .none) (hok : ∀ v, x = .ok v → Accepted i s (k v s)) :
    Accepted i s (withOperand x k s) := by
  rcases withOperand_cases x k s with ⟨v, hx, e⟩ | ⟨r, hx, e⟩ <;> rw [e]
  · exact hok v hx
  · exact .aborts r (herr r hx)

theorem frameOperand_error_ne_none {last : Ppn} {a : Word} {r : AbortReason} (h : frameOperand last a = .error r) :
    r ≠ .none := by
  rcases frameOperand_error h with ⟨rfl, -⟩ | ⟨rfl, -⟩ <;> decide

/-- The inversion of `exec` in `IDLE`. -/
theorem exec_accepted (i : Instr) {s : State} (hp : s.phase = .idle) :
    ∃ t, exec i s = .next t ∧ Accepted i (accepted s) t := by
  cases i with
  | pteVget | pteVset | pteVclr | pteRget | pteRset | pteRclr | pteWget | pteWset | pteWclr | pteDget | pteDset
  | pteDclr | ptePpnget => exact ⟨_, accepting_accepted hp, .answers _⟩
  | ptePpnset entry ppn =>
    exact ⟨_, accepting_accepted hp,
      .withOperand (fun r e => ppnOperand_error e ▸ by decide) fun _ _ => .answers _⟩
  | navIndex vaddr level =>
    exact ⟨_, accepting_accepted hp,
      .withOperand (fun r e => levelOperand_error e ▸ by decide) fun _ _ => .answers _⟩
  | navEntryat table index =>
    exact ⟨_, accepting_accepted hp, .withOperand (fun _ => frameOperand_error_ne_none) fun _ _ =>
      .withOperand (fun r e => indexOperand_error e ▸ by decide) fun _ _ => .answers _⟩
  | navF2p frame =>
    exact ⟨_, accepting_accepted hp, .withOperand (fun _ => frameOperand_error_ne_none) fun _ _ => .answers _⟩
  | navP2f ppn =>
    exact ⟨_, accepting_accepted hp,
      .withOperand (fun r e => poolPpnOperand_error e ▸ by decide) fun _ _ => .answers _⟩
  | mmuWalk | mmuRead | mmuWrite => exact ⟨_, accepting_accepted hp, .accesses _ _ _⟩
  | mmuSetroot frame =>
    exact ⟨_, accepting_accepted hp, .withOperand (fun _ => frameOperand_error_ne_none) fun f e =>
      .setsRoot frame f rfl (inPool_iff.2 (frameOperand_ok e).2.2)⟩
  | mmuGetroot =>
    refine ⟨_, accepting_accepted hp, ?_⟩
    unfold getRoot
    split_ifs
    · exact .answers _
    · exact .aborts _ (by decide)

/-- All that a request word can come to in `IDLE`: the instruction it decodes to, or `ILLEGAL_OP` (30_encoding.md
R89). -/
theorem runRequest_cases (r : Req) {s : State} (hp : s.phase = .idle) :
    ∃ t, runRequest r s = .next t
      ∧ ((∃ i, decode r = .ok i ∧ Accepted i (accepted s) t) ∨ t = raiseAbort .illegalOp (accepted s)) := by
  unfold runRequest
  split
  · next i hi =>
    obtain ⟨t, ht, ha⟩ := exec_accepted i hp
    exact ⟨t, ht, .inl ⟨i, hi, ha⟩⟩
  · exact ⟨_, accepting_accepted hp, .inr rfl⟩

theorem Accepted.inv {i : Instr} {s t : State} (h : s.Inv) (hp : s.phase = .idle) (hb : s.rsp = none)
    (ha : Accepted i s t) : t.Inv := by
  have running : s.phase ≠ .halt := by simp [hp]
  cases ha with
  | answers r => exact h.respond running r
  | aborts r hr => exact h.abort running hr
  | setsRoot a f _ hf => exact h.newRoot running hf
  | accesses op va b => exact runAccess_inv h hp hb op va b

/-- A request keeps the invariant. -/
theorem runRequest_inv {r : Req} {s t : State} (h : s.Inv) (hp : s.phase = .idle) (ht : runRequest r s = .next t) :
    t.Inv := by
  obtain ⟨u, hu, hc⟩ := runRequest_cases r hp
  obtain rfl : u = t := by simpa [hu] using ht
  rcases hc with ⟨i, -, ha⟩ | rfl
  · exact ha.inv h.accept hp rfl
  · exact h.accept.abort (by simp [accepted, hp]) (by decide)

/-- A host action keeps the invariant. -/
theorem hostMove_inv {a : HostAction} {s t : State} (h : s.Inv) (hp : s.phase = .idle) (ht : hostMove a s = .next t) :
    t.Inv := by
  have running : s.phase ≠ .halt := by simp [hp]
  cases a with
  | request r => exact runRequest_inv h hp ht
  | env e => exact hostProcedure_inv h running (envAction_ok h.poolOk e) ht
  | forkCopy => exact hostProcedure_inv h running (forkCopy_ok h.poolOk _ _) ht
  | forkCopyOnWrite => exact hostProcedure_inv h running (forkCopyOnWrite_ok h.poolOk _ _) ht
  | terminate c => exact hostProcedure_inv (value := fun _ => none) h running (endProcess_ok h.poolOk c) ht
  | reset => cases ht; exact resetMachine_inv s

theorem step_inv {s t : State} (h : s.Inv) (ht : step s = .next t) : t.Inv := by
  rcases step_cases ht with ⟨q, -, rfl⟩ | ⟨-, -, rfl⟩ | ⟨a, q, hp, -, -, hm⟩ | ⟨hi, -, hr⟩
  · exact resetMachine_inv _
  · exact h
  · exact hostMove_inv (h.withQueue q) hp hm
  · exact (phaseStep_row hr hi).inv h

/-! The parameters and the root. -/

/-- `t` has the root and the parameters of `s`. -/
structure SameSetup (s t : State) : Prop where
  root    : t.root = s.root
  rootSet : t.rootSet = s.rootSet
  lastPpn : t.lastPpn = s.lastPpn
  handler : t.handler = s.handler

theorem SameSetup.refl (s : State) : SameSetup s s := ⟨rfl, rfl, rfl, rfl⟩

theorem SameSetup.trans {s t u : State} (h : SameSetup s t) (h' : SameSetup t u) : SameSetup s u :=
  ⟨h'.root.trans h.root, h'.rootSet.trans h.rootSet, h'.lastPpn.trans h.lastPpn, h'.handler.trans h.handler⟩

/-- Every row is an update of the latches, the status, the pool, the turns and the record. -/
theorem Row.sameSetup {s t : State} (h : Row s t) : SameSetup s t := by
  cases h <;> exact ⟨rfl, rfl, rfl, rfl⟩

theorem startAccess_sameSetup (op : AccessOp) (va b : Word) (s : State) : SameSetup s (startAccess op va b s) := by
  unfold startAccess
  split_ifs <;> exact ⟨rfl, rfl, rfl, rfl⟩

theorem runAccess_sameSetup (op : AccessOp) (va b : Word) (s : State) : SameSetup s (runAccess op va b s) :=
  runRows_keeps (P := SameSetup s) (fun _ _ h _ _ hr => h.trans hr.sameSetup) _ _ (startAccess_sameSetup op va b s)

theorem hostProcedure_sameSetup {α : Type} {r : PoolResult α} {value : α → Option Nat} {s t : State}
    (h : hostProcedure r value s = .next t) : SameSetup s t := by
  rcases hostProcedure_cases h with ⟨v, p, -, rfl⟩ | ⟨w, p, -, rfl⟩
  · exact ⟨rfl, rfl, rfl, rfl⟩
  · cases w <;> exact ⟨rfl, rfl, rfl, rfl⟩

/-- An accepted instruction leaves the root and the parameters, but for `MMU.SETROOT` (10_state.md R23). -/
theorem Accepted.sameSetup_or {i : Instr} {s t : State} (h : Accepted i s t) :
    SameSetup s t ∨ ∃ a f, i = .mmuSetroot a ∧ t = setRoot f s := by
  cases h with
  | answers r => exact .inl ⟨rfl, rfl, rfl, rfl⟩
  | aborts r => exact .inl ⟨rfl, rfl, rfl, rfl⟩
  | setsRoot a f hi => exact .inr ⟨a, f, hi, rfl⟩
  | accesses op va b => exact .inl (runAccess_sameSetup op va b s)

theorem runRequest_sameSetup_or {r : Req} {s t : State} (hp : s.phase = .idle) (ht : runRequest r s = .next t) :
    SameSetup s t ∨ ∃ a f, decode r = .ok (.mmuSetroot a) ∧ t = setRoot f (accepted s) := by
  obtain ⟨u, hu, hc⟩ := runRequest_cases r hp
  obtain rfl : u = t := by simpa [hu] using ht
  rcases hc with ⟨i, hi, ha⟩ | rfl
  · rcases ha.sameSetup_or with h | ⟨a, f, rfl, rfl⟩
    · exact .inl ⟨h.root, h.rootSet, h.lastPpn, h.handler⟩
    · exact .inr ⟨a, f, hi, rfl⟩
  · exact .inl ⟨rfl, rfl, rfl, rfl⟩

/-- A host action but reset leaves the root and the parameters, or is a request for `MMU.SETROOT`. -/
theorem hostMove_sameSetup_or {a : HostAction} {s t : State} (hp : s.phase = .idle) (ha : a ≠ .reset)
    (ht : hostMove a s = .next t) :
    SameSetup s t
      ∨ ∃ r v f, a = .request r ∧ decode r = .ok (.mmuSetroot v) ∧ t = setRoot f (accepted s) := by
  cases a with
  | request r =>
    exact (runRequest_sameSetup_or hp ht).imp id fun ⟨v, f, hd, e⟩ => ⟨r, v, f, rfl, hd, e⟩
  | env e => exact .inl (hostProcedure_sameSetup ht)
  | forkCopy => exact .inl (hostProcedure_sameSetup ht)
  | forkCopyOnWrite => exact .inl (hostProcedure_sameSetup ht)
  | terminate c => exact .inl (hostProcedure_sameSetup (r := endProcess c s.pool) (value := fun _ => none) ht)
  | reset => exact absurd rfl ha

/-- A step leaves the root and the parameters, or it is a reset, or it is a request for `MMU.SETROOT` in `IDLE`. -/
theorem step_sameSetup_or {s t : State} (ht : step s = .next t) :
    SameSetup s t
      ∨ (∃ q, s.hostQueue = .reset :: q ∧ t = resetMachine { s with hostQueue := q })
      ∨ ∃ q r v f, s.phase = .idle ∧ s.hostQueue = .request r :: q ∧ decode r = .ok (.mmuSetroot v)
        ∧ t = setRoot f (accepted { s with hostQueue := q }) := by
  rcases step_cases ht with hreset | ⟨-, -, rfl⟩ | ⟨a, q, hp, hq, ha, hm⟩ | ⟨hi, -, hr⟩
  · exact .inr (.inl hreset)
  · exact .inl (.refl _)
  · rcases hostMove_sameSetup_or (s := { s with hostQueue := q }) hp ha hm with h | ⟨r, v, f, rfl, hd, e⟩
    · exact .inl ⟨h.root, h.rootSet, h.lastPpn, h.handler⟩
    · exact .inr (.inr ⟨q, r, v, f, hp, hq, hd, e⟩)
  · exact .inl (phaseStep_row hr hi).sameSetup

/-- Settles O41: the invariant is kept by a reset, a host action and a row of an access. -/
theorem everyStepKeepsTheInvariant : Obligations.EveryStepKeepsTheInvariant :=
  fun _ _ => step_inv

/-- Settles O40, at the opaque `MAX_PAGES` and the null handler. -/
theorem invariantHoldsAtReset : Obligations.InvariantHoldsAtReset :=
  reset_inv _ _ _ _

/-- Settles O42: reset and `MMU.SETROOT`, the only steps that touch the set-up, keep the parameters. -/
theorem parametersNeverChange : Obligations.ParametersNeverChange := by
  intro s t ht
  rcases step_sameSetup_or ht with h | ⟨q, -, rfl⟩ | ⟨q, r, v, f, -, -, -, rfl⟩
  · exact ⟨h.lastPpn, h.handler⟩
  · exact ⟨rfl, rfl⟩
  · exact ⟨rfl, rfl⟩

/-- Settles O43: every other step has the root it had. -/
theorem onlySetrootWritesTheRoot : Obligations.OnlySetrootWritesTheRoot := by
  intro s t ht hne
  rcases step_sameSetup_or ht with h | ⟨q, hq, -⟩ | ⟨q, r, v, f, hp, hq, hd, -⟩
  · exact absurd hne (by simp [h.root, h.rootSet])
  · exact ⟨q, .inl hq⟩
  · exact ⟨q, .inr ⟨hp, r, v, hq, hd⟩⟩

end Sys2Proof.Machine
end

section
/-! SUPPORT. What a whole access leaves alone: the host's side, the terminal status where it answers, and under the
null handler every byte but the one it stores (spec/43_translator.md R153, R165). -/

namespace Sys2Proof.Machine

/-! The host's side and the terminal status. -/

/-- `t` has the host's pending actions and last value of `s`. -/
structure SameHost (s t : State) : Prop where
  hostQueue : t.hostQueue = s.hostQueue
  hostVal   : t.hostVal = s.hostVal

/-- `t` has the terminal status and the diagnostic of `s`. -/
structure SameStatus (s t : State) : Prop where
  fatal       : t.fatal = s.fatal
  cause       : t.cause = s.cause
  abortReason : t.abortReason = s.abortReason
  diagValid   : t.diagValid = s.diagValid
  diagVa      : t.diagVa = s.diagVa
  diagLevel   : t.diagLevel = s.diagLevel
  diagPpn     : t.diagPpn = s.diagPpn
  diagFlags   : t.diagFlags = s.diagFlags

theorem SameHost.trans {s t u : State} (h : SameHost s t) (h' : SameHost t u) : SameHost s u :=
  ⟨h'.hostQueue.trans h.hostQueue, h'.hostVal.trans h.hostVal⟩

theorem SameStatus.trans {s t u : State} (h : SameStatus s t) (h' : SameStatus t u) : SameStatus s u :=
  ⟨h'.fatal.trans h.fatal, h'.cause.trans h.cause, h'.abortReason.trans h.abortReason,
    h'.diagValid.trans h.diagValid, h'.diagVa.trans h.diagVa, h'.diagLevel.trans h.diagLevel,
    h'.diagPpn.trans h.diagPpn, h'.diagFlags.trans h.diagFlags⟩

theorem Row.sameHost {s t : State} (h : Row s t) : SameHost s t := by
  cases h <;> exact ⟨rfl, rfl⟩

theorem runAccess_sameHost (op : AccessOp) (va b : Word) (s : State) : SameHost s (runAccess op va b s) := by
  refine runRows_keeps (P := SameHost s) (fun _ _ h _ _ hr => h.trans hr.sameHost) _ _ ?_
  unfold startAccess
  split_ifs <;> exact ⟨rfl, rfl⟩

/-- A row writes the status only where it halts the machine, and answers only where it goes back to `IDLE`. -/
theorem Row.status {s t : State} (h : Row s t) :
    (t.phase ≠ .halt → SameStatus s t) ∧ (t.phase ≠ .idle → t.rsp = s.rsp) := by
  cases h with
  | t3 | t4b | t6 | t6abort | t7c | t9 | t9abort | t10 => exact ⟨fun e => absurd rfl e, fun _ => rfl⟩
  | t4a | t4c | t4e | t5 | t7a | t7b | t8 => exact ⟨fun _ => ⟨rfl, rfl, rfl, rfl, rfl, rfl, rfl, rfl⟩, fun _ => rfl⟩
  | t4d | t11 | t12 => exact ⟨fun _ => ⟨rfl, rfl, rfl, rfl, rfl, rfl, rfl, rfl⟩, fun e => absurd rfl e⟩

/-- An access that has not halted the machine leaves the status, and one that has not gone back to `IDLE` has answered
nothing. -/
theorem runAccess_status {s : State} (hb : s.rsp = none) (op : AccessOp) (va b : Word) :
    ((runAccess op va b s).phase ≠ .halt → SameStatus s (runAccess op va b s))
      ∧ ((runAccess op va b s).phase ≠ .idle → (runAccess op va b s).rsp = none) := by
  refine runRows_keeps (P := fun t => (t.phase ≠ .halt → SameStatus s t) ∧ (t.phase ≠ .idle → t.rsp = none))
    (fun t u ht hidle hhalt hr => ?_) _ _ ?_
  · obtain ⟨hstatus, hrsp⟩ := hr.status
    exact ⟨fun e => (ht.1 hhalt).trans (hstatus e), fun e => (hrsp e).trans (ht.2 hidle)⟩
  · unfold startAccess
    split_ifs
    · exact ⟨fun _ => ⟨rfl, rfl, rfl, rfl, rfl, rfl, rfl, rfl⟩, fun _ => hb⟩
    · exact ⟨fun e => absurd rfl e, fun _ => hb⟩

/-- An answered access leaves the terminal status (10_state.md R28). -/
theorem runAccess_answered {s : State} (hb : s.rsp = none) {op : AccessOp} {va b : Word}
    (h : (runAccess op va b s).rsp.isSome = true) : SameStatus s (runAccess op va b s) := by
  obtain ⟨hstatus, hsilent⟩ := runAccess_status hb op va b
  have hidle : (runAccess op va b s).phase = .idle := by
    by_contra e
    simp [hsilent e] at h
  exact hstatus (by simp [hidle])

/-! The path of an address. -/

/-- The tables on the path of `va`: the root at level 2, and below a table of the pool whose entry does not fault, the
table that the entry names. -/
inductive Reaches (s : State) (va : Word) : Level → Ppn → Prop where
  | root (h : s.rootSet = true) : Reaches s va .l2 s.root
  | down {l m : Level} {t : Ppn} (h : Reaches s va l t) (hi : inPool s.lastPpn t = true)
      (hf : isFault (pteAt s.pool.mem t va l) l = false) (hl : l.below = some m) :
      Reaches s va m (getPpn (pteAt s.pool.mem t va l))

/-- Above the leaf level the entries that do not fault are the pointers. -/
theorem isFault_eq_not_isPointer (e : Word) {l : Level} (hl : l ≠ .l0) : isFault e l = !isPointer e := by
  cases l with
  | l0 => exact absurd rfl hl
  | l1 | l2 => simp [isFault, isPointer]

/-- At the leaf level the entries that do not fault are the complete leaves. -/
theorem isFault_eq_not_isLeaf (e : Word) : isFault e .l0 = !isLeaf e := by
  simp [isFault, isLeaf]

theorem Reaches.eq_root {s : State} {va : Word} {t : Ppn} (h : Reaches s va .l2 t) : s.rootSet = true ∧ t = s.root := by
  cases h with
  | root h => exact ⟨h, rfl⟩
  | @down l m t h hi hf hl => exact absurd rfl (Level.below_ne_l2 hl)

/-- The walk that has passed a leaf of the pool has followed the whole path (43_translator.md R172). -/
theorem Reaches.mapped {s : State} {va : Word} {t : Ppn} (h : Reaches s va .l0 t) (hi : inPool s.lastPpn t = true)
    (hf : isFault (pteAt s.pool.mem t va .l0) .l0 = false) : Mapped s va ∧ t = getPpn (entry1 s va) := by
  cases h with
  | @down l _ t1 h1 hi1 hf1 hl1 =>
    obtain rfl : l = .l1 := by cases l <;> simp_all [Level.below]
    cases h1 with
    | @down l _ t2 h2 hi2 hf2 hl2 =>
      obtain rfl : l = .l2 := by cases l <;> simp_all [Level.below]
      obtain ⟨hset, rfl⟩ := h2.eq_root
      rw [isFault_eq_not_isPointer _ (by decide), Bool.not_eq_false'] at hf1 hf2
      rw [isFault_eq_not_isLeaf, Bool.not_eq_false'] at hf
      exact ⟨⟨hset, hi2, hf2, hi1, hf1, hi, hf⟩, rfl⟩

/-! Memory under the null handler. -/

theorem handlerTurn_null {s : State} (h : s.handler = .null) (r : FaultRequest) :
    handlerTurn s r = .completes .done s.pool := by
  simp [handlerTurn, h]

/-- The access `op` at `va` in `s`, under the null handler, as it has come to `t` without a store: the pool is that of
`s`, a walk evaluates a table of the path, and what follows the walk looks at the leaf entry. -/
structure OnPath (s : State) (op : AccessOp) (va : Word) (t : State) : Prop where
  handler : t.handler = .null
  lastPpn : t.lastPpn = s.lastPpn
  pool    : t.pool = s.pool
  opc     : t.opc = op
  latched : t.va = va
  walking : t.phase = .walk ∨ t.phase = .hwait → Reaches s va t.level t.table
  leaf    : t.phase = .perm ∨ t.phase = .pwait ∨ t.phase = .xfer →
    Mapped s va ∧ t.eaddr = leafAddr s va ∧ t.entry = entry0 s va

/-- The access `op` at `va` in `s` was a write that has been answered, and `t` holds the stored byte. -/
structure Stored (s : State) (op : AccessOp) (va : Word) (t : State) : Prop where
  phase  : t.phase = .idle
  op     : op = .write
  mapped : Mapped s va
  pool   : t.pool = { s.pool with mem := memWrite1 s.pool.mem (translate s va).toNat t.wdata }

/-- The entry a walk on the path fetches. -/
theorem OnPath.fetched_entry {s t : State} {op : AccessOp} {va : Word} (h : OnPath s op va t) :
    (fetched t).entry = pteAt s.pool.mem t.table va t.level := by
  simp [fetched, pteAt, h.pool, h.latched]

/-- Every row under the null handler keeps to the path, up to the store of T12. -/
theorem OnPath.row {s t u : State} {op : AccessOp} {va : Word} (h : OnPath s op va t) (hr : Row t u) :
    OnPath s op va u ∨ Stored s op va u := by
  have hl := h.lastPpn
  cases hr with
  | t3 | t4b | t4d | t7c | t10 | t11 => exact .inl { h with walking := by simp, leaf := by simp }
  | t4a hp => exact .inl { h with walking := fun _ => h.walking (.inl hp), leaf := by simp }
  | t4c m hp ht hf hm =>
    rw [h.fetched_entry] at hf
    refine .inl { h with walking := fun _ => ?_, leaf := by simp }
    rw [descend_table, h.fetched_entry]
    exact (h.walking (.inl hp)).down (hl ▸ ht) hf hm
  | t4e hp ht hf hl0 =>
    rw [h.fetched_entry, hl0] at hf
    obtain ⟨hm, htable⟩ := (hl0 ▸ h.walking (.inl hp)).mapped (hl ▸ ht) hf
    refine .inl { h with walking := by simp, leaf := fun _ => ⟨hm, ?_, ?_⟩ }
    · simp [fetched, leafAddr, hl0, htable, h.latched]
    · rw [enterPerm_entry, h.fetched_entry, hl0, htable, entry0]
  | t5 p hp hh =>
    obtain rfl : t.pool = p := by simpa [handlerTurn_null h.handler] using hh
    exact .inl { h with walking := fun _ => h.walking (.inr hp), leaf := by simp [afterTurn] }
  | t6 _ _ _ hh | t6abort _ _ _ hh | t9 _ _ _ _ hh | t9abort _ _ _ _ hh =>
    rw [handlerTurn_null h.handler] at hh
    cases hh
  | t7a hp | t7b hp => exact .inl { h with walking := by simp, leaf := fun _ => h.leaf (.inl hp) }
  | t8 p hp ha hh =>
    obtain rfl : t.pool = p := by simpa [handlerTurn_null h.handler] using hh
    obtain ⟨hm, headdr, -⟩ := h.leaf (.inr (.inl hp))
    refine .inl { h with walking := by simp [afterTurn], leaf := fun _ => ⟨hm, headdr, ?_⟩ }
    simp [afterTurn, h.pool, headdr, entry0, pteAt, leafAddr]
  | t12 hp hi ho =>
    obtain ⟨hm, -, hentry⟩ := h.leaf (.inr (.inr hp))
    exact .inr ⟨rfl, h.opc.symm.trans ho, hm, by simp [translate, h.pool, h.latched, hentry]⟩

/-- Under the null handler a whole access leaves the pool, or is an answered write on a mapped address that has stored
one byte. -/
theorem runAccess_pool_null {s : State} (hn : s.handler = .null) (op : AccessOp) (va b : Word) :
    (runAccess op va b (accepted s)).pool = s.pool ∨ Stored s op va (runAccess op va b (accepted s)) := by
  cases hset : s.rootSet with
  | false =>
    have hstart : startAccess op va b (accepted s) = raiseAbort .rootUnset (accepted s) := by
      simp [startAccess, accepted, hset]
    rw [runAccess, hstart, runRows_halt rfl]
    exact .inl rfl
  | true =>
    have start : OnPath s op va (startAccess op va b (accepted s)) := by
      rw [startAccess, if_pos (show (accepted s).rootSet = true from hset)]
      exact ⟨hn, rfl, rfl, rfl, rfl, fun _ => .root hset, by simp⟩
    exact (runRows_keeps (P := fun t => OnPath s op va t ∨ Stored s op va t)
      (fun _ _ h hidle _ hr => h.elim (·.row hr) fun h => absurd h.phase hidle) _ _ (.inl start)).imp OnPath.pool id

/-- Under the null handler the only byte that an access changes is the one a write stores. -/
theorem runAccess_changed_byte {s : State} (hn : s.handler = .null) {op : AccessOp} {va b : Word} {a : Nat}
    (h : memRead1 (runAccess op va b (accepted s)).pool.mem a ≠ memRead1 s.pool.mem a) :
    op = .write ∧ Mapped s va ∧ a = (translate s va).toNat := by
  rcases runAccess_pool_null hn op va b with hpool | hstored
  · exact absurd (by rw [hpool]) h
  · refine ⟨hstored.op, hstored.mapped, ?_⟩
    by_contra hne
    rw [hstored.pool, memRead1_write1_ne _ _ hne] at h
    exact h rfl

/-- The three requests for an access run it. -/
theorem exec_access {s : State} (hp : s.phase = .idle) {va b : Word} {i : Instr}
    (hi : i ∈ [Instr.mmuWalk va b, Instr.mmuRead va b, Instr.mmuWrite va b]) :
    ∃ op, exec i s = .next (runAccess op va b (accepted s)) ∧ (op = .write → i = .mmuWrite va b) := by
  simp only [List.mem_cons, List.not_mem_nil, or_false] at hi
  rcases hi with rfl | rfl | rfl
  · exact ⟨.walk, accepting_accepted hp, by simp⟩
  · exact ⟨.read, accepting_accepted hp, by simp⟩
  · exact ⟨.write, accepting_accepted hp, fun _ => rfl⟩

/-- Settles O33: rows write neither the set-up nor the host's side, the status only on the way to `HALT`, and under the
null handler memory only in the store at the translated address. -/
theorem accessFrame : Obligations.AccessFrame := by
  intro s va b hp i hi
  obtain ⟨op, hexec, hwrite⟩ := exec_access hp hi
  have hsetup := runAccess_sameSetup op va b (accepted s)
  have hhost := runAccess_sameHost op va b (accepted s)
  refine ⟨_, hexec, hsetup.root, hsetup.rootSet, hsetup.lastPpn, hsetup.handler, hhost.hostQueue, hhost.hostVal,
    fun hans => ?_, fun hn a ha => ?_⟩
  · have h := runAccess_answered (s := accepted s) rfl hans
    exact ⟨h.fatal, h.cause, h.abortReason, h.diagValid, h.diagVa, h.diagLevel, h.diagPpn, h.diagFlags⟩
  · obtain ⟨hop, hrest⟩ := runAccess_changed_byte hn ha
    exact ⟨hwrite hop, hrest⟩

end Sys2Proof.Machine
end

section
/-! SUPPORT. The entry write of memory (spec/20_memory.md R52, R54), and two accesses side by side: an address enters an
access by its bits 38:0 alone (20_memory.md R51, 30_encoding.md R80). -/

namespace Sys2Proof.Machine

/-- Settles O46, by the laws of an entry write. -/
theorem entryReadAfterWrite : Obligations.EntryReadAfterWrite := fun m a v hm =>
  ⟨memRead8_write8 hm a v, fun _ hi => memRead1_write8 hm a v hi, fun _ hb => memRead1_write8_ne m v hb,
    memWrite8_wf hm a v⟩

/-! The rows as steps. -/

@[simp] theorem fetched_opc (s : State) : (fetched s).opc = s.opc := rfl
@[simp] theorem fetched_va (s : State) : (fetched s).va = s.va := rfl
@[simp] theorem fetched_level (s : State) : (fetched s).level = s.level := rfl
@[simp] theorem fetched_faulted (s : State) : (fetched s).faulted = s.faulted := rfl

/-- A walk in a table of the pool fetches the entry and decides on it (43_translator.md T4). -/
theorem phaseStep_walk {s : State} (hp : s.phase = .walk) (ht : inPool s.lastPpn s.table = true) :
    phaseStep s = .ok (walkDecide (fetched s)) := by
  simp only [phaseStep, hp, walkRow, ht, if_true, fetched]

/-- Every row is the step of the phase machine: the converse of `phaseStep_row`. -/
theorem Row.phaseStep_eq {s t : State} (h : Row s t) : phaseStep s = .ok t := by
  cases h with
  | t3 hp ht => simp [phaseStep, hp, walkRow, ht]
  | t4a hp ht hf hn | t4b hp ht hf hn => rw [phaseStep_walk hp ht]; simp [walkDecide, hf, hn]
  | t4c l hp ht hf hl => rw [phaseStep_walk hp ht]; simp [walkDecide, hf, hl]
  | t4d hp ht hf hl ho => rw [phaseStep_walk hp ht]; simp_all [walkDecide, Level.below]
  | t4e hp ht hf hl ho => rw [phaseStep_walk hp ht]; cases hop : s.opc <;> simp_all [walkDecide, Level.below]
  | t5 _ hp hh | t6 _ _ hp hh | t6abort _ _ hp hh => simp [phaseStep, hp, awaitHandler, hh, afterTurn]
  | t7a hp hb => simp [phaseStep, hp, permRow, hb]
  | t7b hp hb hn | t7c hp hb hn => simp [phaseStep, hp, permRow, hb, hn]
  | t8 _ hp ha hh | t9 _ _ hp ha hh | t9abort _ _ hp ha hh =>
    simp [phaseStep, hp, pwaitRow, populated, ha, awaitHandler, hh, afterTurn]
  | t10 hp hi => simp [phaseStep, hp, xferRow, hi]
  | t11 hp hi ho | t12 hp hi ho => simp [phaseStep, hp, xferRow, hi, ho]

/-! The bits of an address that take part. -/

theorem indexAt_congr {va va' : Word} (h : va.extractLsb' 0 39 = va'.extractLsb' 0 39) (l : Level) :
    indexAt va l = indexAt va' l := by
  have hlow := congrArg BitVec.toNat h
  apply BitVec.eq_of_toNat_eq
  cases l <;> simp only [indexAt, Level.num, BitVec.extractLsb'_toNat, Nat.shiftRight_eq_div_pow] at hlow ⊢ <;> omega

theorem dataAddr_congr {va va' : Word} (h : va.extractLsb' 0 39 = va'.extractLsb' 0 39) (p : Ppn) :
    dataAddr p va = dataAddr p va' := by
  have hlow := congrArg BitVec.toNat h
  apply BitVec.eq_of_toNat_eq
  simp only [BitVec.extractLsb'_toNat, Nat.shiftRight_zero, dataAddr_toNat] at hlow ⊢
  omega

/-! Two accesses side by side. -/

/-- `t` differs from `s` at most in bits 63:39 of the address in progress, and in the two records that show an address:
the diagnostic's and that of the walker's events. -/
inductive Alike (s : State) : State → Prop where
  | mk (va d : Word) (es : List Event) (h : s.va.extractLsb' 0 39 = va.extractLsb' 0 39) :
      Alike s { s with va := va, diagVa := d, events := es }

theorem Alike.refl (s : State) : Alike s s := .mk s.va s.diagVa s.events rfl

theorem Alike.symm {s t : State} (h : Alike s t) : Alike t s := by
  obtain ⟨va, d, es, hlow⟩ := h
  exact .mk s.va s.diagVa s.events hlow.symm

section
variable {s t : State} (h : Alike s t)
include h

theorem Alike.phase_eq : t.phase = s.phase := by cases h; rfl

theorem Alike.eaddr_eq : t.eaddr = s.eaddr := by cases h; rfl

theorem Alike.entry_eq : t.entry = s.entry := by cases h; rfl

/-! What the walker does after the fetch keeps the two alike. -/

theorem Alike.respond (r : Word) : Alike (respond r s) (respond r t) := by
  obtain ⟨va, d, es, hlow⟩ := h
  exact .mk va d es hlow

theorem Alike.raiseFatal (v w : Word) (l : Level) (e : Word) : Alike (raiseFatal v l e s) (raiseFatal w l e t) := by
  obtain ⟨va, d, es, hlow⟩ := h
  exact .mk va w es hlow

theorem Alike.callHandler (l : Level) (wait : Phase) : Alike (callHandler l wait s) (callHandler l wait t) := by
  obtain ⟨va, d, es, hlow⟩ := h
  exact .mk va d _ hlow

theorem Alike.descend (l : Level) : Alike (descend l s) (descend l t) := by
  obtain ⟨va, d, es, hlow⟩ := h
  exact .mk va d es hlow

theorem Alike.enterPerm : Alike (enterPerm s) (enterPerm t) := by
  obtain ⟨va, d, es, hlow⟩ := h
  exact .mk va d es hlow

end

/-- The bound handler sees of a request the level and the address of the entry: the COW handler uses nothing else
(44_fork_cow_env.md R193), and an outside one has its turns in the state. -/
theorem handlerTurn_congr (s : State) {r r' : FaultRequest} (hl : r.level = r'.level)
    (ha : cowEntryAddr r = cowEntryAddr r') : handlerTurn s r = handlerTurn s r' := by
  cases hh : s.handler with
  | null | agent => simp only [handlerTurn, hh]
  | cow => simp only [handlerTurn, hh, cowHandler, hl, ha]

section
variable {s t : State} (h : Alike s t)
include h

/-- The handler's turn is the same in both. -/
theorem Alike.handlerTurn_eq (l : Level) : handlerTurn t (faultRequest t l) = handlerTurn s (faultRequest s l) := by
  obtain ⟨va, d, es, hlow⟩ := h
  exact handlerTurn_congr s rfl (by simp only [cowEntryAddr_faultRequest, indexAt_congr hlow])

/-- The fetch of a walk is the same in both. -/
theorem Alike.fetched : Alike (fetched s) (fetched t) := by
  obtain ⟨va, d, es, hlow⟩ := h
  simp only [Machine.fetched, ← indexAt_congr hlow]
  exact .mk va d _ hlow

/-- Whatever row one access takes, the other takes the same row. -/
theorem Alike.row {u : State} (hr : Row s u) : ∃ v, Row t v ∧ Alike u v := by
  have hturn := h.handlerTurn_eq
  have hfetch := h.fetched
  have hentry := hfetch.entry_eq
  have headdr := hfetch.eaddr_eq
  obtain ⟨va, d, es, hlow⟩ := h
  cases hr with
  | t3 hp ht => exact ⟨_, .t3 hp ht, .mk va d _ hlow⟩
  | t4a hp ht hf hn => exact ⟨_, .t4a hp ht (hentry ▸ hf) hn, hfetch.callHandler _ _⟩
  | t4b hp ht hf hn => exact ⟨_, .t4b hp ht (hentry ▸ hf) hn, hentry ▸ hfetch.raiseFatal _ _ _ _⟩
  | t4c l hp ht hf hl => exact ⟨_, .t4c l hp ht (hentry ▸ hf) hl, hfetch.descend l⟩
  | t4d hp ht hf hl ho => exact ⟨_, .t4d hp ht (hentry ▸ hf) hl ho, headdr ▸ hfetch.respond _⟩
  | t4e hp ht hf hl ho => exact ⟨_, .t4e hp ht (hentry ▸ hf) hl ho, hfetch.enterPerm⟩
  | t5 p hp hh => exact ⟨_, .t5 p hp ((hturn _).trans hh), .mk va d _ hlow⟩
  | t6 c p hp hh => exact ⟨_, .t6 c p hp ((hturn _).trans hh), .mk va d _ hlow⟩
  | t6abort r p hp hh => exact ⟨_, .t6abort r p hp ((hturn _).trans hh), .mk va d _ hlow⟩
  | t7a hp hb => exact ⟨_, .t7a hp hb, .mk va d _ hlow⟩
  | t7b hp hb hn => exact ⟨_, .t7b hp hb hn, .mk va d _ hlow⟩
  | t7c hp hb hn => exact ⟨_, .t7c hp hb hn, .mk va _ _ hlow⟩
  | t8 p hp ha hh => exact ⟨_, .t8 p hp ha ((hturn _).trans hh), .mk va d _ hlow⟩
  | t9 c p hp ha hh => exact ⟨_, .t9 c p hp ha ((hturn _).trans hh), .mk va d _ hlow⟩
  | t9abort r p hp ha hh => exact ⟨_, .t9abort r p hp ha ((hturn _).trans hh), .mk va d _ hlow⟩
  | t10 hp hi => exact ⟨_, .t10 hp hi, .mk va d _ hlow⟩
  | t11 hp hi ho => exact ⟨_, .t11 hp hi ho, dataAddr_congr hlow _ ▸ .mk va d _ hlow⟩
  | t12 hp hi ho => exact ⟨_, .t12 hp hi ho, dataAddr_congr hlow _ ▸ .mk va d _ hlow⟩

end

/-- Where one access takes no further row, the other takes none: else the first would take it too. -/
theorem Alike.phaseStep_error {s t : State} (h : Alike s t) (hp : s.phase ≠ .idle) {f : Fault}
    (hs : phaseStep s = .error f) : ∃ g, phaseStep t = .error g := by
  cases ht : phaseStep t with
  | error g => exact ⟨g, rfl⟩
  | ok v =>
    obtain ⟨u, hu, -⟩ := h.symm.row (phaseStep_row ht (h.phase_eq ▸ hp))
    rw [hu.phaseStep_eq] at hs
    cases hs

/-- Row by row the two stay alike to the end. -/
theorem Alike.runRows {s t : State} (h : Alike s t) (n : Nat) : Alike (runRows n s) (runRows n t) := by
  induction n generalizing s t with
  | zero => exact h
  | succ n ih =>
    have hphase := h.phase_eq
    by_cases hidle : s.phase = .idle
    · rwa [runRows_idle hidle, runRows_idle (hphase.trans hidle)]
    by_cases hhalt : s.phase = .halt
    · rwa [runRows_halt hhalt, runRows_halt (hphase.trans hhalt)]
    cases hs : phaseStep s with
    | error f =>
      obtain ⟨g, ht⟩ := h.phaseStep_error hidle hs
      rwa [runRows_stuck hs, runRows_stuck ht]
    | ok u =>
      obtain ⟨v, hv, huv⟩ := h.row (phaseStep_row hs hidle)
      rw [runRows_succ hidle hhalt hs, runRows_succ (hphase ▸ hidle) (hphase ▸ hhalt) hv.phaseStep_eq]
      exact ih huv

/-- Two accesses to addresses that agree in bits 38:0 start alike, and so end alike. -/
theorem runAccess_alike {va va' : Word} (h : va.extractLsb' 0 39 = va'.extractLsb' 0 39) (op : AccessOp) (b : Word)
    (s : State) : Alike (runAccess op va b s) (runAccess op va' b s) := by
  refine Alike.runRows ?_ _
  unfold startAccess
  split_ifs
  · exact .mk va' _ _ h
  · exact .refl _

/-- Settles O30: the two accesses end alike, and states that are alike agree in all that is compared. -/
theorem unusedAddressBitsDoNotMatter : Obligations.UnusedAddressBitsDoNotMatter := by
  intro s va va' b hp hlow ij hij
  obtain ⟨op, hexec, hexec'⟩ : ∃ op, exec ij.1 s = .next (runAccess op va b (accepted s))
      ∧ exec ij.2 s = .next (runAccess op va' b (accepted s)) := by
    simp only [List.mem_cons, List.not_mem_nil, or_false] at hij
    rcases hij with rfl | rfl | rfl
    · exact ⟨.walk, accepting_accepted hp, accepting_accepted hp⟩
    · exact ⟨.read, accepting_accepted hp, accepting_accepted hp⟩
    · exact ⟨.write, accepting_accepted hp, accepting_accepted hp⟩
  refine ⟨_, _, hexec, hexec', ?_⟩
  have h := runAccess_alike hlow op b (accepted s)
  generalize runAccess op va' b (accepted s) = t' at h ⊢
  cases h
  exact ⟨rfl, rfl, rfl, rfl, rfl, rfl, rfl, rfl, rfl, rfl⟩

end Sys2Proof.Machine
end

section
/-! SUPPORT. The request word: what it decodes to, and that its decoder and its encoder are inverse (spec/30_encoding.md
R84, R88, R89, R90). -/

namespace Sys2Proof

/-- Settles O38: each number has its arm in the decoder, and the fields of a packed word are what was packed. -/
theorem decodeInvertsEncode : Obligations.DecodeInvertsEncode := by
  intro i
  cases i with
  | pteVget | pteVset | pteVclr | pteRget | pteRset | pteRclr | pteWget | pteWset | pteWclr | pteDget | pteDset
  | pteDclr | ptePpnget | navF2p | navP2f | mmuSetroot => simp [encode, decode, op_pack, a_pack]
  | ptePpnset | navIndex | navEntryat | mmuWalk | mmuRead | mmuWrite => simp [encode, decode, op_pack, a_pack, b_pack]
  | mmuGetroot => simp [encode, decode, op_pack]

/-- The encoder puts back the fields that the decoder has read, and clears the others. -/
theorem encode_of_decode {r : Req} {i : Instr} (h : decode r = .ok i) :
    encode i = Req.pack (Req.op r) (if (Req.op r).toNat = 0x34 then 0 else Req.a r)
      (if (Req.op r).toNat ∈ [0x11, 0x20, 0x21, 0x30, 0x31, 0x32] then Req.b r else 0) := by
  unfold decode at h
  split at h <;> cases h <;> simp [encode, *]

/-- Settles O39, field by field. -/
theorem encodeInvertsDecode : Obligations.EncodeInvertsDecode := by
  intro r i h
  rw [encode_of_decode h]
  exact ⟨op_pack _ _ _, a_pack _ _ _, b_pack _ _ _⟩

/-- The operation numbers of R88. -/
def operationNumbers : List Byte :=
  [0x00, 0x01, 0x02, 0x04, 0x05, 0x06, 0x08, 0x09, 0x0A, 0x0C, 0x0D, 0x0E, 0x10, 0x11,
    0x20, 0x21, 0x22, 0x23, 0x30, 0x31, 0x32, 0x33, 0x34]

/-- The decoder accepts the operation numbers: one arm each, and the last arm takes the rest. -/
theorem decode_ok_iff (r : Req) : (∃ i, decode r = .ok i) ↔ Req.op r ∈ operationNumbers := by
  unfold decode
  split <;> simp_all [operationNumbers]

/-- The other numbers are the reserved ones of R89. -/
theorem mem_operationNumbers_iff (o : Byte) :
    o ∈ operationNumbers ↔ ¬(o.toNat ∈ [0x03, 0x07, 0x0B, 0x0F] ∨ (0x12 ≤ o.toNat ∧ o.toNat ≤ 0x1F)
      ∨ (0x24 ≤ o.toNat ∧ o.toNat ≤ 0x2F) ∨ 0x35 ≤ o.toNat) := by
  simp only [operationNumbers, List.mem_cons, List.not_mem_nil, or_false, BitVec.toNat_eq, BitVec.toNat_ofNat,
    BitVec.ofNat_eq_ofNat]
  omega

namespace Machine

/-- A request that decodes to no instruction aborts (R89). -/
theorem runRequest_reserved {r : Req} (h : ∀ i, decode r ≠ .ok i) (s : State) :
    runRequest r s = accepting (raiseAbort .illegalOp) s := by
  cases hd : decode r with
  | ok i => exact absurd hd (h i)
  | error e => simp only [runRequest, hd]

/-- A request that decodes to an instruction runs it. -/
theorem runRequest_decoded {r : Req} {i : Instr} (h : decode r = .ok i) (s : State) : runRequest r s = exec i s := by
  simp only [runRequest, h]

/-- Settles O35: the numbers that are not reserved are those the decoder accepts, and the others run the abort. -/
theorem reservedNumbersAbort : Obligations.ReservedNumbersAbort := by
  intro r
  refine ⟨(decode_ok_iff r).trans (mem_operationNumbers_iff _), fun h s q hp hq => ?_⟩
  rw [step_request hp hq, runRequest_reserved h]
  exact accepting_idle hp

/-- Settles O34: every arm of `exec` waits for `IDLE`. -/
theorem requestWaitsWhileBusy : Obligations.RequestWaitsWhileBusy := by
  intro i s hp
  cases i <;> exact accepting_busy hp

/-- Settles O36: both states have the request at the head of the queue. -/
theorem stepRunsTheDecodedRequest : Obligations.StepRunsTheDecodedRequest := by
  refine ⟨fun s r q i hp hq hd => ?_, fun s i => ?_⟩
  · rw [step_request hp hq, runRequest_decoded hd]
  · rw [State.withFetchWord, tableReq_full, placeRequest, step_request rfl rfl,
      runRequest_decoded (decodeInvertsEncode i)]

/-- Settles O37, by running the decoder on the seven words. -/
theorem requestWordsDecode : Obligations.RequestWordsDecode := by
  unfold Obligations.RequestWordsDecode
  decide

end Machine

end Sys2Proof
end

section
/-! SUPPORT. The words of the fault port, of the diagnostic record and of the status, field by field
(spec/30_encoding.md R86, R87, R94, R95), and the word of a record of an entry's fields (R92). -/

namespace Sys2Proof.Machine

/-- Settles O56: the words with bit 3 clear, the three causes, the remaining words, and each completion's own word. -/
theorem completionWords : Obligations.CompletionWords := by
  refine ⟨by decide, rfl, rfl, rfl, by decide, fun c => ?_⟩
  rcases c with _ | c
  · rfl
  · cases c <;> rfl

theorem Level.code_toNat (l : Level) : l.code.toNat = l.num := by
  cases l <;> rfl

/-! A field of a concatenation lies above all that is appended after it: each step peels the last part off. -/

theorem FaultRequest.word_fields (r : FaultRequest) :
    r.word.extractLsb' 66 64 = r.virtualAddress ∧ r.word.extractLsb' 64 2 = r.level.code
      ∧ r.word.extractLsb' 0 64 = r.pageTable := by
  unfold FaultRequest.word
  refine ⟨?_, ?_, ?_⟩
  · rw [BitVec.extractLsb'_append_eq_of_le (by decide)]; exact BitVec.extractLsb'_append_eq_left
  · rw [BitVec.extractLsb'_append_eq_of_le (by decide)]; exact BitVec.extractLsb'_append_eq_right
  · exact BitVec.extractLsb'_append_eq_right

theorem State.diagWord_fields (s : State) :
    s.diagWord.getLsbD 114 = s.diagValid ∧ s.diagWord.extractLsb' 50 64 = s.diagVa
      ∧ s.diagWord.extractLsb' 48 2 = s.diagLevel.code ∧ s.diagWord.extractLsb' 4 44 = s.diagPpn
      ∧ s.diagWord.extractLsb' 0 4 = s.diagFlags := by
  unfold State.diagWord
  refine ⟨?_, ?_, ?_, ?_, ?_⟩
  · iterate 4 rw [BitVec.getLsbD_append, if_neg (by decide)]
    cases s.diagValid <;> rfl
  · iterate 3 rw [BitVec.extractLsb'_append_eq_of_le (by decide)]
    exact BitVec.extractLsb'_append_eq_right
  · iterate 2 rw [BitVec.extractLsb'_append_eq_of_le (by decide)]
    exact BitVec.extractLsb'_append_eq_right
  · rw [BitVec.extractLsb'_append_eq_of_le (by decide)]
    exact BitVec.extractLsb'_append_eq_right
  · exact BitVec.extractLsb'_append_eq_right

theorem State.statusWord_fields (s : State) :
    s.statusWord.getLsbD 7 = s.fatal ∧ s.statusWord.extractLsb' 4 3 = s.cause.code
    ∧ s.statusWord.extractLsb' 0 4 = s.abortReason.code := by
  unfold State.statusWord
  refine ⟨?_, ?_, ?_⟩
  · iterate 2 rw [BitVec.getLsbD_append, if_neg (by decide)]
    cases s.fatal <;> rfl
  · rw [BitVec.extractLsb'_append_eq_of_le (by decide)]
    exact BitVec.extractLsb'_append_eq_right
  · exact BitVec.extractLsb'_append_eq_right

/-- The diagnostic flags, bit by bit (10_state.md R28). -/
theorem diagFlagsOf_bits (e : Word) :
    (diagFlagsOf e).getLsbD 3 = e.getLsbD 8 ∧ (diagFlagsOf e).getLsbD 2 = e.getLsbD 2
    ∧ (diagFlagsOf e).getLsbD 1 = e.getLsbD 1 ∧ (diagFlagsOf e).getLsbD 0 = e.getLsbD 0 := by
  simp only [diagFlagsOf, getDeferred, getWrite, getRead, getValid]
  generalize e.getLsbD 8 = d, e.getLsbD 2 = w, e.getLsbD 1 = r, e.getLsbD 0 = v
  revert d w r v
  decide

/-- Settles O55: the fields of the three words, the level by its number, and the numbers of the codes. -/
theorem portWordFormats : Obligations.PortWordFormats := by
  refine ⟨fun r => ?_, fun s => ?_, State.statusWord_fields, diagFlagsOf_bits, by decide, by decide⟩
  · obtain ⟨hva, hlevel, htable⟩ := r.word_fields
    exact ⟨hva, by rw [hlevel, Level.code_toNat], htable⟩
  · obtain ⟨hvalid, hva, hlevel, hppn, hflags⟩ := s.diagWord_fields
    exact ⟨hvalid, hva, by rw [hlevel, Level.code_toNat], hppn, hflags⟩

/-! The record of an entry's fields. -/

/-- A flag shifted to bit `k`. -/
theorem flag_getLsbD (b : Bool) (k : Nat) {i : Nat} (hi : i < 64) :
    ((BitVec.ofBool b).setWidth 64 <<< k).getLsbD i = (decide (i = k) && b) := by
  rw [BitVec.getLsbD_shiftLeft, BitVec.getLsbD_setWidth, BitVec.getLsbD_ofBool]
  rcases lt_trichotomy i k with h | rfl | h
  · simp [h, h.ne]
  · simp [hi]
  · simp [show ¬i - k = 0 by omega, h.ne']

/-! Setting a flag that is 1 is ORing the flag into its place. -/

theorem setValid_if (b : Bool) (e : Word) :
    (if b then setValid e else e) = e ||| (BitVec.ofBool b).setWidth 64 := by
  cases b <;> simp [setValid, vMask]

theorem setRead_if (b : Bool) (e : Word) :
    (if b then setRead e else e) = e ||| ((BitVec.ofBool b).setWidth 64 <<< 1) := by
  cases b <;> simp [setRead, rMask]

theorem setWrite_if (b : Bool) (e : Word) :
    (if b then setWrite e else e) = e ||| ((BitVec.ofBool b).setWidth 64 <<< 2) := by
  cases b <;> simp [setWrite, wMask]

theorem setDeferred_if (b : Bool) (e : Word) :
    (if b then setDeferred e else e) = e ||| ((BitVec.ofBool b).setWidth 64 <<< 8) := by
  cases b <;> simp [setDeferred, dMask]

/-- `PTE.ENC` is the formula of R92: each set operation ORs its flag into its place. -/
theorem pteEnc_eq (r : PteRecord) :
    pteEnc r = (r.ppn.setWidth 64 <<< 20) ||| ((BitVec.ofBool r.deferred).setWidth 64 <<< 8)
      ||| ((BitVec.ofBool r.write).setWidth 64 <<< 2) ||| ((BitVec.ofBool r.read).setWidth 64 <<< 1)
      ||| (BitVec.ofBool r.valid).setWidth 64 := by
  have hppn : setPpn 0 r.ppn = r.ppn.setWidth 64 <<< 20 := by simp [setPpn]
  dsimp only [pteEnc]
  rw [setDeferred_if, setWrite_if, setRead_if, setValid_if, hppn]
  generalize r.ppn.setWidth 64 <<< 20 = p, (BitVec.ofBool r.deferred).setWidth 64 <<< 8 = d,
    (BitVec.ofBool r.write).setWidth 64 <<< 2 = w, (BitVec.ofBool r.read).setWidth 64 <<< 1 = q,
    (BitVec.ofBool r.valid).setWidth 64 = v
  ac_rfl

/-- The bits of the word of a record. -/
theorem pteEnc_getLsbD (r : PteRecord) {i : Nat} (hi : i < 64) :
    (pteEnc r).getLsbD i = (!decide (i < 20) && r.ppn.getLsbD (i - 20) || decide (i = 8) && r.deferred
      || decide (i = 2) && r.write || decide (i = 1) && r.read || decide (i = 0) && r.valid) := by
  have hv := flag_getLsbD r.valid 0 hi
  rw [BitVec.shiftLeft_zero] at hv
  simp only [pteEnc_eq, BitVec.getLsbD_or, flag_getLsbD _ _ hi, hv]
  simp [hi]

/-- The bits that the fields of a record name are 63:20, 8, 2, 1 and 0 (R81). -/
theorem namedBits_getLsbD {i : Nat} (hi : i < 64) : (0xFFFFFFFFFFF00107 : Word).getLsbD i =
    (!decide (i < 20) || decide (i = 8) || decide (i = 2) || decide (i = 1) || decide (i = 0)) := by
  revert i
  decide

/-- The bits of the PPN field. -/
theorem getPpn_getLsbD (e : Word) {i : Nat} (hi : i < 44) : (getPpn e).getLsbD i = e.getLsbD (20 + i) := by
  simp [getPpn, hi]

/-- `PTE.DEC` after `PTE.ENC` gives the record back: no two fields share a bit. -/
theorem pteDec_pteEnc (r : PteRecord) : pteDec (pteEnc r) = r := by
  have hppn : getPpn (pteEnc r) = r.ppn := by
    refine BitVec.eq_of_getLsbD_eq fun i hi => ?_
    rw [getPpn_getLsbD _ hi, pteEnc_getLsbD r (by omega)]
    simp [show ¬20 + i = 8 by omega, show ¬20 + i = 2 by omega, show ¬20 + i = 1 by omega]
  have bit {i : Nat} (hi : i < 64) := pteEnc_getLsbD r hi
  rw [pteDec, hppn, getValid, getRead, getWrite, getDeferred, bit (by decide), bit (by decide), bit (by decide),
    bit (by decide)]
  simp

/-- `PTE.ENC` after `PTE.DEC` keeps the bits that are named and clears the others. -/
theorem pteEnc_pteDec (e : Word) : pteEnc (pteDec e) = e &&& 0xFFFFFFFFFFF00107 := by
  refine BitVec.eq_of_getLsbD_eq fun i hi => ?_
  have flag (k : Nat) : (decide (i = k) && e.getLsbD k) = (e.getLsbD i && decide (i = k)) := by
    by_cases h : i = k <;> simp [h]
  have field : (!decide (i < 20) && (getPpn e).getLsbD (i - 20)) = (e.getLsbD i && !decide (i < 20)) := by
    by_cases h : i < 20
    · simp [h]
    · simp [h, getPpn_getLsbD e (show i - 20 < 44 by omega), show 20 + (i - 20) = i by omega]
  rw [pteEnc_getLsbD _ hi, BitVec.getLsbD_and, namedBits_getLsbD hi]
  simp only [pteDec, getValid, getRead, getWrite, getDeferred, flag, field, Bool.and_or_distrib_left]

/-- Settles O8, by the formula and the two round trips, which compare bit by bit. -/
theorem recordEncodingRoundTrips : Obligations.RecordEncodingRoundTrips :=
  ⟨fun r => ⟨pteEnc_eq r, pteDec_pteEnc r⟩, pteEnc_pteDec⟩

end Sys2Proof.Machine
end

section
/-! SUPPORT. Two entries that agree in bits 2:0 and 63:20 (spec/30_encoding.md R82): the rows of 43_translator.md R153
look at nothing else, but for the marker D in the diagnostic flags (10_state.md R28). -/

namespace Sys2Proof.Machine

/-- `e` and `e'` have the same valid, read and write bit and the same PPN. -/
structure SameNamed (e e' : Word) : Prop where
  valid : getValid e = getValid e'
  read  : getRead e = getRead e'
  write : getWrite e = getWrite e'
  ppn   : getPpn e = getPpn e'

/-- Words that agree under a mask agree in each of its bits. -/
theorem getLsbD_eq_of_xor_and {e e' m : Word} (h : (e ^^^ e') &&& m = 0) {i : Nat} (hm : m.getLsbD i = true) :
    e.getLsbD i = e'.getLsbD i := by
  have hi := congrArg (·.getLsbD i) h
  simpa [hm] using hi

/-- The mask of bits 2:0 and 63:20 covers the three flags and the PPN. -/
theorem SameNamed.of_mask {e e' : Word} (h : (e ^^^ e') &&& 0xFFFFFFFFFFF00007 = 0) : SameNamed e e' where
  valid := getLsbD_eq_of_xor_and h (by decide)
  read  := getLsbD_eq_of_xor_and h (by decide)
  write := getLsbD_eq_of_xor_and h (by decide)
  ppn   := by
    have high : ∀ j : Fin 44, (0xFFFFFFFFFFF00007 : Word).getLsbD (20 + j) = true := by decide
    refine BitVec.eq_of_getLsbD_eq fun i hi => ?_
    rw [getPpn_getLsbD e hi, getPpn_getLsbD e' hi]
    exact getLsbD_eq_of_xor_and h (high ⟨i, hi⟩)

section
variable {e e' : Word} (h : SameNamed e e')
include h

theorem SameNamed.symm : SameNamed e' e :=
  ⟨h.valid.symm, h.read.symm, h.write.symm, h.ppn.symm⟩

theorem SameNamed.isFault_eq (l : Level) : isFault e l = isFault e' l := by
  cases l <;> simp only [isFault, h.valid, h.read, h.write]

theorem SameNamed.need_eq (op : AccessOp) : need e op = need e' op := by
  cases op <;> simp only [need, h.read, h.write]

/-- The diagnostic flags differ at most in bit 3, the marker D (10_state.md R28). -/
theorem SameNamed.diagFlags_eq : (diagFlagsOf e').extractLsb' 0 3 = (diagFlagsOf e).extractLsb' 0 3 := by
  rw [diagFlagsOf, diagFlagsOf, h.valid, h.read, h.write]
  generalize getDeferred e = d, getDeferred e' = d', getWrite e' = w, getRead e' = r, getValid e' = v
  revert d d' w r v
  decide

end

/-! A row on two entries. -/

/-- The fatal fault of the one entry is that of the other, but for the diagnostic flags. -/
theorem raiseFatal_sameNamed {e e' : Word} (h : SameNamed e e') (va : Word) (l : Level) (s : State) :
    raiseFatal va l e' s = { raiseFatal va l e s with diagFlags := diagFlagsOf e' } := by
  rw [raiseFatal, raiseFatal, h.ppn]

/-- `s` with another frame memory. -/
def withMem (s : State) (m : Memory) : State := { s with pool := { s.pool with mem := m } }

/-- A row of the walk on two memories whose fetched entries agree in the named bits. -/
theorem Row.walk_sameNamed {s t : State} {m : Memory} (hr : Row s t) (hp : s.phase = .walk)
    (h : SameNamed (fetched s).entry (fetched (withMem s m)).entry) :
    ∃ (x : Word) (d : BitVec 4), d.extractLsb' 0 3 = t.diagFlags.extractLsb' 0 3
      ∧ Row (withMem s m) { withMem t m with entry := x, diagFlags := d } := by
  have hfault := (h.isFault_eq s.level).symm
  cases hr with
  | t3 _ ht => exact ⟨s.entry, s.diagFlags, rfl, .t3 hp ht⟩
  | t4a _ ht hf hn => exact ⟨_, s.diagFlags, rfl, .t4a hp ht (hfault.trans hf) hn⟩
  | t4b _ ht hf hn =>
    have hrow : Row (withMem s m) _ := .t4b hp ht (hfault.trans hf) hn
    rw [raiseFatal_sameNamed h] at hrow
    exact ⟨_, _, h.diagFlags_eq, hrow⟩
  | t4c l _ ht hf hl =>
    have hrow : Row (withMem s m) _ := .t4c l hp ht (hfault.trans hf) hl
    rw [Machine.descend, ← h.ppn] at hrow
    exact ⟨_, s.diagFlags, rfl, hrow⟩
  | t4d _ ht hf hl ho => exact ⟨_, s.diagFlags, rfl, .t4d hp ht (hfault.trans hf) hl ho⟩
  | t4e _ ht hf hl ho => exact ⟨_, s.diagFlags, rfl, .t4e hp ht (hfault.trans hf) hl ho⟩
  | t5 _ hq | t6 _ _ hq | t6abort _ _ hq | t7a hq | t7b hq | t7c hq | t8 _ hq | t9 _ _ hq | t9abort _ _ hq | t10 hq
  | t11 hq | t12 hq => rw [hp] at hq; cases hq

/-- A row in `PERM` or `XFER` on two latched entries that agree in the named bits. -/
theorem Row.latched_sameNamed {s t : State} {e' : Word} (hr : Row s t) (hp : s.phase = .perm ∨ s.phase = .xfer)
    (h : SameNamed s.entry e') :
    ∃ d : BitVec 4, d.extractLsb' 0 3 = t.diagFlags.extractLsb' 0 3
      ∧ Row { s with entry := e' } { t with entry := e', diagFlags := d } := by
  have hneed := (h.need_eq s.opc).symm
  have hpool : inPool s.lastPpn (getPpn e') = inPool s.lastPpn (getPpn s.entry) := by rw [h.ppn]
  have haddr : dataAddr (getPpn e') s.va = dataAddr (getPpn s.entry) s.va := by rw [h.ppn]
  cases hr with
  | t7a hq hb => exact ⟨s.diagFlags, rfl, .t7a hq (hneed.trans hb)⟩
  | t7b hq hb hn => exact ⟨s.diagFlags, rfl, .t7b hq (hneed.trans hb) hn⟩
  | t7c hq hb hn =>
    have hrow : Row { s with entry := e' } (raiseFatal s.va .l0 e' { s with entry := e' }) :=
      .t7c hq (hneed.trans hb) hn
    rw [raiseFatal_sameNamed h] at hrow
    exact ⟨_, h.diagFlags_eq, hrow⟩
  | t10 hq hi => exact ⟨s.diagFlags, rfl, .t10 hq (hpool.trans hi)⟩
  | t11 hq hi ho => exact ⟨s.diagFlags, rfl, haddr ▸ .t11 (s := { s with entry := e' }) hq (hpool.trans hi) ho⟩
  | t12 hq hi ho => exact ⟨s.diagFlags, rfl, haddr ▸ .t12 (s := { s with entry := e' }) hq (hpool.trans hi) ho⟩
  | t3 hq | t4a hq | t4b hq | t4c _ hq | t4d hq | t4e hq | t5 _ hq | t6 _ _ hq | t6abort _ _ hq | t8 _ hq | t9 _ _ hq
  | t9abort _ _ hq => simp [hq] at hp

/-- The only stop in `PERM` and `XFER` is that there is no row for a walk. -/
theorem phaseStep_error_noRow {s : State} {f : Fault} (hp : s.phase = .perm ∨ s.phase = .xfer)
    (h : phaseStep s = .error f) : f = .noRow := by
  rcases hp with hp | hp <;> simp only [phaseStep, hp] at h
  · unfold permRow at h
    split at h
    · cases h; rfl
    · cases h
    · split_ifs at h
  · unfold xferRow at h
    split_ifs at h
    dsimp only at h
    split at h <;> cases h
    rfl

/-- A step in `PERM` or `XFER` on the other entry. -/
theorem phaseStep_latched_sameNamed {s t : State} {e' : Word} (hp : s.phase = .perm ∨ s.phase = .xfer)
    (h : SameNamed s.entry e') (hs : phaseStep s = .ok t) :
    ∃ d : BitVec 4, d.extractLsb' 0 3 = t.diagFlags.extractLsb' 0 3
      ∧ phaseStep { s with entry := e' } = .ok { t with entry := e', diagFlags := d } := by
  have hidle : s.phase ≠ .idle := by rcases hp with hp | hp <;> simp [hp]
  obtain ⟨d, hd, hrow⟩ := (phaseStep_row hs hidle).latched_sameNamed hp h
  exact ⟨d, hd, hrow.phaseStep_eq⟩

/-- Where a step in `PERM` or `XFER` stops on one of the entries, it stops alike on the other: else the first would take
the other's row too. -/
theorem phaseStep_error_sameNamed {s : State} {e' : Word} {f : Fault} (hp : s.phase = .perm ∨ s.phase = .xfer)
    (h : SameNamed s.entry e') (hs : phaseStep s = .error f) : phaseStep { s with entry := e' } = .error f := by
  cases ht : phaseStep { s with entry := e' } with
  | error g => rw [phaseStep_error_noRow hp hs, phaseStep_error_noRow (s := { s with entry := e' }) hp ht]
  | ok v =>
    obtain ⟨d, -, hback⟩ := phaseStep_latched_sameNamed (s := { s with entry := e' }) hp h.symm ht
    cases hs.symm.trans hback

/-- Settles O31: the conditions of the rows and what the rows write look at the named bits alone. -/
theorem unnamedEntryBitsDoNotMatter : Obligations.UnnamedEntryBitsDoNotMatter := by
  intro e e' hmask
  have h := SameNamed.of_mask hmask
  refine ⟨⟨h.isFault_eq, h.need_eq, h.ppn⟩, fun s t m hp he he' hs => ?_, fun s hp he => ?_⟩
  · subst he he'
    obtain ⟨x, d, hd, hrow⟩ := (phaseStep_row hs (by simp [hp])).walk_sameNamed (m := m) hp h
    exact ⟨x, d, hd, hrow.phaseStep_eq⟩
  · subst he
    exact ⟨fun _ => phaseStep_error_sameNamed hp h, fun _ => phaseStep_latched_sameNamed hp h⟩

end Sys2Proof.Machine
end

section
/-! SUPPORT. The codec operations and `NAV.INDEX` on operands in and out of their domains (spec/30_encoding.md R90,
41_pte_codec.md R134, 42_navigator.md R146). -/

namespace Sys2Proof.Machine

/-- `o` answers and touches the response port and the record alone when `ok`, and aborts with the pool and the root as
they were when not. -/
def AnswersWhen (ok : Bool) (s : State) (o : Host.Outcome State Fault Refusal) : Prop :=
  (ok = true → ∃ r : Word, o = .next { s with rsp := some r, events := [] })
    ∧ (ok = false → ∃ t, o = .next t ∧ t.phase = .halt ∧ t.cause = .abort ∧ t.rsp = none
      ∧ t.pool = s.pool ∧ t.root = s.root ∧ t.rootSet = s.rootSet)

section
variable {s : State} (hp : s.phase = .idle)
include hp

theorem accepting_respond (r : Word) : accepting (respond r) s = .next { s with rsp := some r, events := [] } := by
  rw [accepting_idle hp, respond, hp]

theorem answersWhen_respond (r : Word) : AnswersWhen true s (accepting (respond r) s) :=
  ⟨fun _ => ⟨r, accepting_respond hp r⟩, by simp⟩

/-- An operation with one checked operand answers exactly when the check passes. -/
theorem answersWhen_withOperand {α : Type} {x : Except AbortReason α} {ok : Bool} (hx : x.isOk = ok)
    (f : α → Word) : AnswersWhen ok s (accepting (withOperand x fun v => respond (f v)) s) := by
  subst hx
  cases x with
  | ok v => exact answersWhen_respond hp (f v)
  | error r =>
    exact ⟨by simp [Except.isOk, Except.toBool], fun _ => ⟨_, accepting_idle hp, rfl, rfl, rfl, rfl, rfl, rfl⟩⟩

end

/-! The checks are the domains of R90. -/

theorem ppnOperand_isOk (b : Word) : (ppnOperand b).isOk = isPpnOperand b := by
  unfold ppnOperand isPpnOperand
  split_ifs with h
  · exact (decide_eq_true h).symm
  · exact (decide_eq_false h).symm

theorem levelOperand_isOk (b : Word) : (levelOperand b).isOk = decide (b.toNat ≤ 2) := by
  simp only [levelOperand, BitVec.toNat_eq, BitVec.toNat_ofNat, BitVec.ofNat_eq_ofNat]
  split_ifs <;> simp [Except.isOk, Except.toBool] <;> omega

/-- Settles O58: an operation without a checked operand answers, and the checks of the two others are the domains of
R90. -/
theorem wellFormedCodecNeverAborts : Obligations.WellFormedCodecNeverAborts := by
  intro i s hp hop
  change AnswersWhen i.wellFormed s (exec i s)
  cases i with
  | pteVget | pteVset | pteVclr | pteRget | pteRset | pteRclr | pteWget | pteWset | pteWclr | pteDget | pteDset
  | pteDclr | ptePpnget => exact answersWhen_respond hp _
  | ptePpnset e b => exact answersWhen_withOperand hp (ppnOperand_isOk b) _
  | navIndex va b => exact answersWhen_withOperand hp (levelOperand_isOk b) _
  | navEntryat | navF2p | navP2f | mmuWalk | mmuRead | mmuWrite | mmuSetroot | mmuGetroot =>
    exact absurd hop (by simp [Instr.op])

end Sys2Proof.Machine
end

section
/-! SUPPORT. The frame allocator (spec/40_frame_pool_env.md R111 to R115): when `alloc()` finds a frame, all that
`free()` can do, what both keep of the allocator's invariant, and the COW handler's turn with the pool exhausted. -/

namespace Sys2Proof.Machine

/-! How many frames are allocated. -/

/-- No more frames are allocated than there are. -/
theorem Pool.Ok.length_allocSet_le {last : Ppn} {p : Pool} (h : p.Ok last) : p.allocSet.length ≤ maxPages last := by
  have hsub : p.allocSet ⊆ List.range (maxPages last) := fun f hf => List.mem_range.2 (h.allocInside f hf)
  simpa using (List.subperm_of_subset h.allocSorted.nodup hsub).length_le

theorem Pool.Ok.live_le {last : Ppn} {p : Pool} (h : p.Ok last) (hc : p.Counted) : p.live ≤ maxPages last :=
  hc ▸ h.length_allocSet_le

/-- With every frame allocated `LIVE` is at its end. -/
theorem Pool.Counted.le_live {last : Ppn} {p : Pool} (hc : p.Counted) (h : ∀ k < maxPages last, k ∈ p.allocSet) :
    maxPages last ≤ p.live := by
  have hsub : List.range (maxPages last) ⊆ p.allocSet := fun k hk => h k (List.mem_range.1 hk)
  rw [hc]
  simpa using (List.subperm_of_subset List.nodup_range hsub).length_le

/-! `alloc()`. -/

theorem allocFrame_exhausted {last : Ppn} {p : Pool} (h : p.live = maxPages last) :
    allocFrame last p = .stop (.terminate .outOfMemory) p :=
  if_pos h

/-- What a frame that `alloc()` returned says of the pool before and after. -/
theorem allocFrame_eq_ok {last f : Ppn} {p q : Pool} (h : allocFrame last p = .ok f q) :
    q = { p with allocSet := setInsert p.allocSet f.toNat, live := p.live + 1 } ∧ f.toNat ∉ p.allocSet := by
  rcases allocFrame_cases last p with ⟨g, e, -, -, hn, -⟩ | ⟨e, -⟩
  · obtain ⟨rfl, rfl⟩ := PoolResult.ok.inj (e.symm.trans h)
    exact ⟨rfl, hn⟩
  · cases e.symm.trans h

/-- Settles O47: of the two outcomes of `alloc()`, room in a counted pool excludes the second. -/
theorem allocTakesTheLowestFreeFrame : Obligations.AllocTakesTheLowestFreeFrame := by
  intro last p
  refine ⟨allocFrame_exhausted, fun hroom _ hc => ?_⟩
  rcases allocFrame_cases last p with ⟨f, e, -, hf, hn, hleast⟩ | ⟨-, hfull | hall⟩
  · exact ⟨f, _, e, hf, hn, hleast, fun _ => mem_setInsert, rfl, rfl, rfl⟩
  · exact absurd hfull hroom.ne
  · exact absurd (hc.le_live hall) hroom.not_ge

/-! `free(frame)`. -/

/-- The pool with a frame zeroed and released (40_frame_pool_env.md R112). -/
def Pool.freed (p : Pool) (f : Ppn) : Pool :=
  { p with mem := zeroFrame p.mem f, allocSet := setErase p.allocSet f.toNat, live := p.live - 1 }

theorem Pool.memRead1_freed (p : Pool) (f : Ppn) (a : Nat) :
    memRead1 (p.freed f).mem a = if a / 4096 = f.toNat then 0 else memRead1 p.mem a := by
  simp only [freed, memRead1_zeroFrame, inFrame_iff]

/-- All that `free(frame)` can do (40_frame_pool_env.md R112). -/
theorem freeFrame_cases (last : Ppn) (frame : Word) (p : Pool) :
    (frame.extractLsb' 0 12 ≠ 0 ∧ freeFrame last frame p = .stop (.abort .misalignedFrame) p)
    ∨ (frame.extractLsb' 0 12 = 0 ∧ maxPages last ≤ frame.toNat / 4096
      ∧ freeFrame last frame p = .stop (.abort .frameRange) p)
    ∨ ∃ f : Ppn, f.toNat = frame.toNat / 4096 ∧ frame.extractLsb' 0 12 = 0 ∧ f.toNat < maxPages last
      ∧ (f.toNat ∉ p.allocSet ∧ freeFrame last frame p = .stop (.abort .envAssert) p
        ∨ f.toNat ∈ p.allocSet ∧ freeFrame last frame p = .ok () (p.freed f)) := by
  cases hop : frameOperand last frame with
  | error r =>
    rcases frameOperand_error hop with ⟨rfl, ha⟩ | ⟨rfl, ha, hr⟩
    · exact .inl ⟨ha, by simp only [freeFrame, hop]⟩
    · exact .inr (.inl ⟨ha, hr, by simp only [freeFrame, hop]⟩)
  | ok f =>
    obtain ⟨ha, hf, hr⟩ := frameOperand_ok hop
    refine .inr (.inr ⟨f, hf, ha, hr, ?_⟩)
    by_cases hm : f.toNat ∈ p.allocSet
    · exact .inr ⟨hm, by simp [freeFrame, hop, hm, Pool.freed]⟩
    · exact .inl ⟨hm, by simp [freeFrame, hop, hm]⟩

/-- What a frame that `free()` took back says of the pool before and after. -/
theorem freeFrame_eq_ok {last : Ppn} {frame : Word} {p q : Pool} (h : freeFrame last frame p = .ok () q) :
    ∃ f : Ppn, q = p.freed f ∧ f.toNat ∈ p.allocSet := by
  rcases freeFrame_cases last frame p with ⟨-, e⟩ | ⟨-, -, e⟩ | ⟨f, -, -, -, ⟨-, e⟩ | ⟨hm, e⟩⟩
  · cases e.symm.trans h
  · cases e.symm.trans h
  · cases e.symm.trans h
  · exact ⟨f, (PoolResult.ok.inj (h.symm.trans e)).2, hm⟩

/-- Settles O48: each outcome of `free()` belongs to one of the four conditions, which exclude each other. -/
theorem freeZeroesAndReleasesTheFrame : Obligations.FreeZeroesAndReleasesTheFrame := by
  intro last frame p
  rcases freeFrame_cases last frame p with ⟨ha, e⟩ | ⟨ha, hr, e⟩ | ⟨f, hf, ha, hr, hcase⟩
  · exact ⟨fun _ => e, fun h => absurd h ha, fun h => absurd h ha, fun h => absurd h ha⟩
  · exact ⟨fun h => absurd ha h, fun _ _ => e, fun _ h => absurd h hr.not_gt, fun _ h => absurd h hr.not_gt⟩
  · rw [← hf]
    refine ⟨fun h => absurd ha h, fun _ h => absurd hr h.not_gt, ?_⟩
    rcases hcase with ⟨hn, e⟩ | ⟨hm, e⟩
    · exact ⟨fun _ _ _ => e, fun _ _ h => absurd h hn⟩
    · exact ⟨fun _ _ h => absurd hm h, fun _ _ _ => ⟨_, e, p.memRead1_freed f, fun _ => mem_setErase,
        Nat.sub_add_cancel, fun h => by simp [Pool.freed, h], rfl⟩⟩

/-! The allocator's invariant (40_frame_pool_env.md R114). -/

theorem Pool.Counted.alloc {p : Pool} (h : p.Counted) {k : Nat} (hk : k ∉ p.allocSet) :
    Pool.Counted { p with allocSet := setInsert p.allocSet k, live := p.live + 1 } := by
  rw [Counted, length_setInsert hk, h]

theorem Pool.FreeZero.alloc {p : Pool} (h : p.FreeZero) (k n : Nat) :
    Pool.FreeZero { p with allocSet := setInsert p.allocSet k, live := n } :=
  fun a ha => h a fun hmem => ha (mem_setInsert.2 (.inr hmem))

theorem Pool.Counted.freed {last : Ppn} {p : Pool} (h : p.Counted) (hok : p.Ok last) {f : Ppn}
    (hf : f.toNat ∈ p.allocSet) : (p.freed f).Counted := by
  rw [Counted, Pool.freed, length_setErase hok.allocSorted hf, h]

/-- Outside the frame just zeroed, a frame that is not allocated was not allocated before. -/
theorem Pool.FreeZero.freed {p : Pool} (h : p.FreeZero) (f : Ppn) : (p.freed f).FreeZero := by
  intro a ha
  rw [memRead1_freed]
  split_ifs with hfa
  · rfl
  · exact h a fun hmem => ha (mem_setErase.2 ⟨hfa, hmem⟩)

/-- Settles O49: both operations keep the canonical form, the count and the zeros of the free frames. -/
theorem allocatorInvariantIsKept : Obligations.AllocatorInvariantIsKept := by
  intro last p hok hc hz
  refine ⟨fun f q h => ?_, fun frame q h => ?_⟩
  · have hq := allocFrame_ok hok
    rw [h] at hq
    obtain ⟨rfl, hn⟩ := allocFrame_eq_ok h
    exact ⟨hc.alloc hn, hq.1.live_le (hc.alloc hn), hz.alloc _ _, fun a ha => hz a (ha ▸ hn)⟩
  · have hq := freeFrame_ok hok frame
    rw [h] at hq
    obtain ⟨f, rfl, hf⟩ := freeFrame_eq_ok h
    exact ⟨hc.freed hok hf, hq.1.live_le (hc.freed hok hf), hz.freed f⟩

/-! The handler's turn with the pool exhausted. -/

/-- The COW handler copies when the leaf entry is valid, in range and shared (44_fork_cow_env.md R193). -/
theorem cowHandler_shared {last : Ppn} {r : FaultRequest} {p : Pool} (hl : r.level = .l0)
    (ha : cowEntryAddr r + 8 ≤ poolBytes last) (hv : getValid (memRead8 p.mem (cowEntryAddr r)) = true)
    (hi : inPool last (getPpn (memRead8 p.mem (cowEntryAddr r))) = true)
    (hr : 1 < refcntOf p (getPpn (memRead8 p.mem (cowEntryAddr r)))) :
    cowHandler last r p = cowCopy last (cowEntryAddr r) (memRead8 p.mem (cowEntryAddr r)) p := by
  obtain ⟨n, hn⟩ := Nat.exists_eq_add_of_le' hr
  simp [cowHandler, hl, populated, ha, hv, hi, hn]

theorem cowCopy_exhausted {last : Ppn} {p : Pool} (h : p.live = maxPages last) (ea : Nat) (e : Word) :
    cowCopy last ea e p = .completes (.terminate .outOfMemory) p := by
  simp only [cowCopy, allocFrame_exhausted h, HandlerResult.ofStop]

/-- Settles O57: the invariant puts the leaf entry the handler looks at in the pool and at `EADDR`, the handler goes to
copy it, and the row is T9 with the pool as it was. -/
theorem handlerTerminationHaltsWithItsCause : Obligations.HandlerTerminationHaltsWithItsCause := by
  rintro s hinv hp hh hlive e rfl hv hi hr
  have ht := hinv.tableInside (.inr (.inr (.inl hp)))
  obtain ⟨-, hea⟩ := hinv.leafRound (.inr (.inl hp))
  have haddr : cowEntryAddr (faultRequest s .l0) = s.eaddr.toNat := by rw [cowEntryAddr_faultRequest, hea]
  have hpop : s.eaddr.toNat + 8 ≤ poolBytes s.lastPpn := hea ▸ entryAt_populated ht _
  have hturn : handlerTurn s (faultRequest s .l0) = .completes (.terminate .outOfMemory) s.pool := by
    rw [← haddr] at hv hi hr hpop
    simp only [handlerTurn, hh]
    rw [cowHandler_shared rfl hpop hv (inPool_iff.2 hi) hr, cowCopy_exhausted hlive]
  have hturns : turnsAfter s = s.agentTurns := by simp only [turnsAfter, hh]
  rw [(Row.t9 .outOfMemory s.pool hp hpop hturn).phaseStep_eq, afterTurn, hturns]
  rfl

end Sys2Proof.Machine
end

section
/-! SUPPORT. The PTE codec (spec/41_pte_codec.md R120 to R136): what each flag operation and `set_ppn` do to the bits of
an entry, and what each codec instruction answers. -/

namespace Sys2Proof.Machine

/-- The bit of an entry that holds the flag (30_encoding.md R81). -/
def PteFlag.bit : PteFlag → Nat
  | .valid => 0
  | .read => 1
  | .write => 2
  | .deferred => 8

theorem PteFlag.bit_lt (x : PteFlag) : x.bit < 20 := by
  cases x <;> decide

theorem PteFlag.bit_ne {x y : PteFlag} (h : y ≠ x) : y.bit ≠ x.bit := by
  revert h
  cases x <;> cases y <;> decide

/-- No flag lies in the bits 7:3 and 19:9, which have no name. -/
theorem PteFlag.ne_bit_of_unnamed (x : PteFlag) {i : Nat} (hi : (3 ≤ i ∧ i ≤ 7) ∨ (9 ≤ i ∧ i ≤ 19)) : i ≠ x.bit := by
  cases x <;> simp only [PteFlag.bit] <;> omega

theorem PteFlag.get_eq (x : PteFlag) (e : Word) : x.get e = e.getLsbD x.bit := by
  cases x <;> rfl

theorem PteFlag.set_eq (x : PteFlag) (e : Word) : x.set e = e ||| BitVec.twoPow 64 x.bit := by
  cases x <;> rfl

theorem PteFlag.clear_eq (x : PteFlag) (e : Word) : x.clear e = e &&& ~~~BitVec.twoPow 64 x.bit := by
  cases x <;> rfl

theorem PteFlag.set_getLsbD (x : PteFlag) (e : Word) (i : Nat) :
    (x.set e).getLsbD i = (e.getLsbD i || decide (i = x.bit)) := by
  have := x.bit_lt
  rw [x.set_eq, BitVec.getLsbD_or, BitVec.getLsbD_twoPow]
  simp [show x.bit < 64 by omega, eq_comm]

theorem PteFlag.clear_getLsbD (x : PteFlag) (e : Word) {i : Nat} (hi : i < 64) :
    (x.clear e).getLsbD i = (e.getLsbD i && !decide (i = x.bit)) := by
  have := x.bit_lt
  rw [x.clear_eq, BitVec.getLsbD_and, BitVec.getLsbD_not, BitVec.getLsbD_twoPow]
  simp [hi, show x.bit < 64 by omega, eq_comm]

theorem PteFlag.set_getLsbD_ne (x : PteFlag) (e : Word) {i : Nat} (h : i ≠ x.bit) :
    (x.set e).getLsbD i = e.getLsbD i := by
  simp [x.set_getLsbD, h]

theorem PteFlag.clear_getLsbD_ne (x : PteFlag) (e : Word) {i : Nat} (hi : i < 64) (h : i ≠ x.bit) :
    (x.clear e).getLsbD i = e.getLsbD i := by
  simp [x.clear_getLsbD e hi, h]

theorem notPpnMask_getLsbD {i : Nat} (hi : i < 64) : (~~~ppnMask).getLsbD i = decide (i < 20) := by
  revert i
  decide

/-- `set_ppn` puts the number into bits 63:20 and keeps bits 19:0. -/
theorem setPpn_getLsbD (e : Word) (p : Ppn) {i : Nat} (hi : i < 64) :
    (setPpn e p).getLsbD i = if i < 20 then e.getLsbD i else p.getLsbD (i - 20) := by
  rw [setPpn, BitVec.getLsbD_or, BitVec.getLsbD_and, notPpnMask_getLsbD hi, BitVec.getLsbD_shiftLeft,
    BitVec.getLsbD_setWidth]
  by_cases h : i < 20
  · simp [h]
  · simp [h, hi, show i - 20 < 64 by omega]

theorem getPpn_congr {e e' : Word} (h : ∀ i, 20 ≤ i → i < 64 → e.getLsbD i = e'.getLsbD i) : getPpn e = getPpn e' := by
  refine BitVec.eq_of_getLsbD_eq fun i hi => ?_
  rw [getPpn_getLsbD e hi, getPpn_getLsbD e' hi, h _ (by omega) (by omega)]

theorem getPpn_setPpn (e : Word) (p : Ppn) : getPpn (setPpn e p) = p := by
  refine BitVec.eq_of_getLsbD_eq fun i hi => ?_
  rw [getPpn_getLsbD _ hi, setPpn_getLsbD e p (by omega), if_neg (by omega), Nat.add_sub_cancel_left]

theorem setPpn_getPpn (e : Word) : setPpn e (getPpn e) = e := by
  refine BitVec.eq_of_getLsbD_eq fun i hi => ?_
  rw [setPpn_getLsbD e _ hi]
  split_ifs with h
  · rfl
  · rw [getPpn_getLsbD e (by omega), Nat.add_sub_cancel' (by omega)]

theorem PteFlag.get_setPpn (x : PteFlag) (e : Word) (p : Ppn) : x.get (setPpn e p) = x.get e := by
  have := x.bit_lt
  rw [x.get_eq, x.get_eq, setPpn_getLsbD e p (by omega), if_pos this]

theorem PteFlag.getPpn_set (x : PteFlag) (e : Word) : getPpn (x.set e) = getPpn e :=
  getPpn_congr fun _ h _ => x.set_getLsbD_ne e (x.bit_lt.trans_le h).ne'

theorem PteFlag.getPpn_clear (x : PteFlag) (e : Word) : getPpn (x.clear e) = getPpn e :=
  getPpn_congr fun _ h hi => x.clear_getLsbD_ne e hi (x.bit_lt.trans_le h).ne'

/-- Settles O6: a flag operation changes the flag's own bit alone, no two flags share a bit, and all of them lie below
the PPN field. -/
theorem flagsAreIndependent : Obligations.FlagsAreIndependent := by
  refine ⟨fun x e => ⟨?_, ?_, x.getPpn_set e, x.getPpn_clear e, fun y hy => ?_, fun i hi => ?_⟩, PteFlag.get_setPpn⟩
  · simp [x.get_eq, x.set_getLsbD]
  · have := x.bit_lt
    simp [x.get_eq, x.clear_getLsbD e (show x.bit < 64 by omega)]
  · have := y.bit_lt
    simp only [y.get_eq]
    exact ⟨x.set_getLsbD_ne e (PteFlag.bit_ne hy), x.clear_getLsbD_ne e (by omega) (PteFlag.bit_ne hy)⟩
  · exact ⟨x.set_getLsbD_ne e (x.ne_bit_of_unnamed hi),
      x.clear_getLsbD_ne e (by omega) (x.ne_bit_of_unnamed hi)⟩

theorem ppnOperand_of_lt {b : Word} (h : b.toNat < 2 ^ 44) : ppnOperand b = .ok (b.setWidth 44) :=
  if_pos h

theorem ppnOperand_of_ge {b : Word} (h : 2 ^ 44 ≤ b.toNat) : ppnOperand b = .error .ppnRange :=
  if_neg (Nat.not_lt.2 h)

/-- A word below 2^44 is kept by the PPN field. -/
theorem setWidth_ppn_setWidth {b : Word} (h : b.toNat < 2 ^ 44) : (b.setWidth 44 : Ppn).setWidth 64 = b := by
  refine BitVec.eq_of_toNat_eq ?_
  simp only [BitVec.toNat_setWidth]
  omega

/-- Settles O7, by the operand's check and the two inverse laws of the field. -/
theorem ppnRoundTrips : Obligations.PpnRoundTrips := by
  refine ⟨fun e b h => ⟨_, ppnOperand_of_lt h, ?_⟩, fun b => ppnOperand_of_ge, setPpn_getPpn⟩
  rw [getPpn_setPpn, setWidth_ppn_setWidth h]

/-! The instructions. -/

theorem flagWord_getLsbD (e : Word) (k : Nat) : flagWord (e.getLsbD k) = (e.extractLsb' k 1).setWidth 64 := by
  refine BitVec.eq_of_getLsbD_eq fun i hi => ?_
  rw [flagWord, BitVec.getLsbD_setWidth, BitVec.getLsbD_setWidth, BitVec.getLsbD_ofBool, BitVec.getLsbD_extractLsb']
  cases i <;> simp

/-- The PPN field of an entry, as a word, is the entry shifted down. -/
theorem getPpn_setWidth (e : Word) : (getPpn e).setWidth 64 = e >>> 20 := by
  refine BitVec.eq_of_toNat_eq ?_
  have := e.isLt
  simp only [getPpn, BitVec.toNat_setWidth, BitVec.extractLsb'_toNat, BitVec.toNat_ushiftRight,
    Nat.shiftRight_eq_div_pow]
  omega

/-- R133's formula: clearing the PPN field is keeping bits 19:0. -/
theorem setPpn_setWidth (e : Word) {b : Word} (h : b.toNat < 2 ^ 44) :
    setPpn e (b.setWidth 44) = (e &&& 0x00000000000FFFFF) ||| (b <<< 20) := by
  rw [setPpn, setWidth_ppn_setWidth h]
  rfl

/-- A get operation's answer (R120, R123, R126, R129). -/
theorem accepting_flag {s : State} (hp : s.phase = .idle) (e : Word) (k : Nat) :
    accepting (respond (flagWord (e.getLsbD k))) s
      = .next { s with rsp := some ((e.extractLsb' k 1).setWidth 64), events := [] } := by
  rw [accepting_respond hp, flagWord_getLsbD]

/-- Settles O1: each operation answers its flag, which is one bit of the entry. -/
theorem pteGetAnswersTheFlagBit : Obligations.PteGetAnswersTheFlagBit := by
  intro e b s hp
  exact ⟨by simp [decode], accepting_flag hp e 0, by simp [decode], accepting_flag hp e 1,
    by simp [decode], accepting_flag hp e 2, by simp [decode], accepting_flag hp e 8⟩

/-- Settles O2: each operation answers the entry ORed with its flag's mask. -/
theorem pteSetSetsTheFlagBit : Obligations.PteSetSetsTheFlagBit := by
  intro e b s hp
  exact ⟨by simp [decode], accepting_respond hp (setValid e), by simp [decode], accepting_respond hp (setRead e),
    by simp [decode], accepting_respond hp (setWrite e), by simp [decode], accepting_respond hp (setDeferred e)⟩

/-- Settles O3: each operation answers the entry ANDed with its flag's inverted mask. -/
theorem pteClearClearsTheFlagBit : Obligations.PteClearClearsTheFlagBit := by
  intro e b s hp
  exact ⟨by simp [decode], accepting_respond hp (clearValid e), by simp [decode], accepting_respond hp (clearRead e),
    by simp [decode], accepting_respond hp (clearWrite e), by simp [decode], accepting_respond hp (clearDeferred e)⟩

/-- Settles O4: the operation answers the PPN field, whatever `MAX_PAGES` is. -/
theorem ptePpngetAnswersTheFrameNumber : Obligations.PtePpngetAnswersTheFrameNumber := by
  intro e b s hp
  refine ⟨by simp [decode], ?_⟩
  rw [← getPpn_setWidth]
  exact accepting_respond hp _

theorem exec_ptePpnset (e b : Word) (s : State) : exec (.ptePpnset e b) s =
    accepting (withOperand (ppnOperand b) fun p => respond (setPpn e p)) s :=
  rfl

/-- Settles O5, by the operand's check. -/
theorem ptePpnsetReplacesTheFieldOrAborts : Obligations.PtePpnsetReplacesTheFieldOrAborts := by
  intro e b s hp
  refine ⟨by simp [decode], fun h => ?_, fun h => ?_⟩
  · rw [exec_ptePpnset, ppnOperand_of_lt h, ← setPpn_setWidth e h]
    exact accepting_respond hp _
  · rw [exec_ptePpnset, ppnOperand_of_ge h]
    exact accepting_idle hp

end Sys2Proof.Machine
end

section
/-! SUPPORT. The navigator (spec/42_navigator.md R140 to R145): what each operand check of 30_encoding.md R90 gives,
the checked operands and the answers as 64-bit words, and what each instruction comes to. -/

namespace Sys2Proof.Machine

/-! The operand checks. -/

theorem levelOperand_of_le {b : Word} (h : b.toNat ≤ 2) : ∃ l, levelOperand b = .ok l ∧ l.num = b.toNat := by
  simp only [levelOperand, BitVec.toNat_eq, BitVec.toNat_ofNat, BitVec.ofNat_eq_ofNat]
  split_ifs
  · exact ⟨.l0, rfl, by simp only [Level.num]; omega⟩
  · exact ⟨.l1, rfl, by simp only [Level.num]; omega⟩
  · exact ⟨.l2, rfl, by simp only [Level.num]; omega⟩
  · omega

theorem levelOperand_of_gt {b : Word} (h : 2 < b.toNat) : levelOperand b = .error .badLevel := by
  simp only [levelOperand, BitVec.toNat_eq, BitVec.toNat_ofNat, BitVec.ofNat_eq_ofNat]
  split_ifs
  · omega
  · omega
  · omega
  · rfl

theorem indexOperand_of_le {b : Word} (h : b.toNat ≤ 511) : indexOperand b = .ok (b.setWidth 9) :=
  if_pos (Nat.lt_succ_of_le h)

theorem indexOperand_of_gt {b : Word} (h : 511 < b.toNat) : indexOperand b = .error .badIndex :=
  if_neg (Nat.not_lt.2 h)

theorem poolPpnOperand_of_lt {last : Ppn} {a : Word} (h : a.toNat < maxPages last) :
    poolPpnOperand last a = .ok (a.setWidth 44) :=
  if_pos h

theorem poolPpnOperand_of_ge {last : Ppn} {a : Word} (h : maxPages last ≤ a.toNat) :
    poolPpnOperand last a = .error .frameRange :=
  if_neg (Nat.not_lt.2 h)

theorem frameOperand_of_misaligned {last : Ppn} {a : Word} (h : a.extractLsb' 0 12 ≠ 0) :
    frameOperand last a = .error .misalignedFrame :=
  if_neg h

theorem frameOperand_of_ge {last : Ppn} {a : Word} (ha : a.extractLsb' 0 12 = 0)
    (h : maxPages last ≤ (a >>> 12).toNat) : frameOperand last a = .error .frameRange := by
  rw [frameOperand_aligned ha, poolPpnOperand_of_ge h]

theorem frameOperand_of_lt {last : Ppn} {a : Word} (ha : a.extractLsb' 0 12 = 0)
    (h : (a >>> 12).toNat < maxPages last) : frameOperand last a = .ok ((a >>> 12).setWidth 44) := by
  rw [frameOperand_aligned ha, poolPpnOperand_of_lt h]

/-- An index, as a word, is an index operand. -/
theorem indexOperand_setWidth (i : Index) : indexOperand (i.setWidth 64) = .ok i := by
  have hi : (i.setWidth 64).toNat = i.toNat := BitVec.toNat_setWidth_of_le (by decide)
  rw [indexOperand_of_le (by rw [hi]; exact Nat.le_of_lt_succ i.isLt),
    BitVec.setWidth_setWidth_of_le _ (by decide), BitVec.setWidth_eq]

/-! The answers as words. -/

/-- A number of the pool is below 2^44 (00_scope.md R6). -/
theorem lt_of_lt_maxPages {last : Ppn} {n : Nat} (h : n < maxPages last) : n < 2 ^ 44 :=
  Nat.lt_of_lt_of_le h last.isLt

/-- R140's formula: the nine bits of the level, as a shift and a mask. -/
theorem indexAt_setWidth (va : Word) (l : Level) :
    (indexAt va l).setWidth 64 = (va >>> (9 * l.num + 12)) &&& 0x1FF := by
  have mask : ∀ i : Fin 64, (0x1FF : Word).getLsbD i = decide (i.val < 9) := by decide
  refine BitVec.eq_of_getLsbD_eq fun i hi => ?_
  rw [indexAt, BitVec.getLsbD_setWidth, BitVec.getLsbD_extractLsb', BitVec.getLsbD_and, BitVec.getLsbD_ushiftRight,
    mask ⟨i, hi⟩]
  simp [hi, Bool.and_comm]

/-- The index of a level, put back into its place, is the address under the mask of the level. -/
theorem indexAt_shiftLeft (va : Word) (l : Level) :
    (indexAt va l).setWidth 64 <<< (9 * l.num + 12) = va &&& ((0x1FF : Word) <<< (9 * l.num + 12)) := by
  rw [indexAt_setWidth]
  refine BitVec.eq_of_getLsbD_eq fun i hi => ?_
  simp only [BitVec.getLsbD_and, BitVec.getLsbD_shiftLeft, BitVec.getLsbD_ushiftRight]
  by_cases h : i < 9 * l.num + 12
  · simp [h]
  · simp [h, hi, Nat.add_sub_cancel' (Nat.not_lt.1 h)]

/-- Settles O14: each part is the address under a mask, and the four masks make up the low 39 bits. -/
theorem addressSplitReconstructs : Obligations.AddressSplitReconstructs := by
  intro va
  have h2 : (indexAt va .l2).setWidth 64 <<< 30 = va &&& ((0x1FF : Word) <<< 30) := indexAt_shiftLeft va .l2
  have h1 : (indexAt va .l1).setWidth 64 <<< 21 = va &&& ((0x1FF : Word) <<< 21) := indexAt_shiftLeft va .l1
  have h0 : (indexAt va .l0).setWidth 64 <<< 12 = va &&& ((0x1FF : Word) <<< 12) := indexAt_shiftLeft va .l0
  have masks : ((0x1FF : Word) <<< 30) ||| ((0x1FF : Word) <<< 21) ||| ((0x1FF : Word) <<< 12) ||| 0xFFF
      = 0x0000007FFFFFFFFF := by decide
  rw [h2, h1, h0, ← BitVec.and_or_distrib_left, ← BitVec.and_or_distrib_left, ← BitVec.and_or_distrib_left, masks]

/-- R143's formula. -/
theorem frameWord_setWidth {last : Ppn} {a : Word} (h : a.toNat < maxPages last) :
    frameWord (a.setWidth 44) = a <<< 12 := by
  have := lt_of_lt_maxPages h
  refine BitVec.eq_of_toNat_eq ?_
  rw [frameWord_toNat, BitVec.toNat_setWidth, BitVec.toNat_shiftLeft, Nat.shiftLeft_eq]
  omega

/-- R141's formula: the frame is aligned, so that its number is all of it, and the sum does not carry out of it. -/
theorem entryAt_setWidth {last : Ppn} {a b : Word} (ha : a.extractLsb' 0 12 = 0)
    (h : (a >>> 12).toNat < maxPages last) (hb : b.toNat ≤ 511) :
    (entryAt ((a >>> 12).setWidth 44) (b.setWidth 9)).setWidth 64 = a + 8 * b := by
  obtain ⟨-, hf, -⟩ := frameOperand_ok (frameOperand_of_lt ha h)
  have aligned : a.toNat % 4096 = 0 := by simpa using congrArg BitVec.toNat ha
  refine BitVec.eq_of_toNat_eq ?_
  have := a.isLt
  rw [BitVec.toNat_setWidth, entryAt_toNat, hf, BitVec.toNat_setWidth, BitVec.toNat_add, BitVec.toNat_mul,
    show (8 : Word).toNat = 8 from rfl]
  omega

/-! The instructions. -/

theorem exec_navIndex (va l : Word) (s : State) : exec (.navIndex va l) s =
    accepting (withOperand (levelOperand l) fun v => respond ((indexAt va v).setWidth 64)) s :=
  rfl

theorem exec_navEntryat (a b : Word) (s : State) : exec (.navEntryat a b) s =
    accepting (withOperand (frameOperand s.lastPpn a) fun f =>
      withOperand (indexOperand b) fun i => respond ((entryAt f i).setWidth 64)) s :=
  rfl

theorem exec_navF2p (a : Word) (s : State) : exec (.navF2p a) s =
    accepting (withOperand (frameOperand s.lastPpn a) fun f => respond (f.setWidth 64)) s :=
  rfl

theorem exec_navP2f (a : Word) (s : State) : exec (.navP2f a) s =
    accepting (withOperand (poolPpnOperand s.lastPpn a) fun f => respond (frameWord f)) s :=
  rfl

/-- Settles O9, by the operand's check and the formula of the index. -/
theorem navIndexAnswersTheSlice : Obligations.NavIndexAnswersTheSlice := by
  intro va l s hp
  refine ⟨by simp [decode], fun h => ?_, fun h => ?_⟩
  · obtain ⟨v, hv, hnum⟩ := levelOperand_of_le h
    rw [exec_navIndex, hv, ← hnum, ← indexAt_setWidth]
    exact accepting_respond hp _
  · rw [exec_navIndex, levelOperand_of_gt h]
    exact accepting_idle hp

/-- Settles O10, by the checks in their order and the formula of the entry's address. -/
theorem navEntryatLocatesTheEntry : Obligations.NavEntryatLocatesTheEntry := by
  intro a b s hp
  refine ⟨by simp [decode], fun ha => ?_, fun ha h => ?_, fun ha h hb => ?_, fun ha h hb => ?_⟩
  · rw [exec_navEntryat, frameOperand_of_misaligned ha]
    exact accepting_idle hp
  · rw [exec_navEntryat, frameOperand_of_ge ha h]
    exact accepting_idle hp
  · rw [exec_navEntryat, frameOperand_of_lt ha h, indexOperand_of_gt hb]
    exact accepting_idle hp
  · rw [exec_navEntryat, frameOperand_of_lt ha h, indexOperand_of_le hb, ← entryAt_setWidth ha h hb]
    exact accepting_respond hp _

/-- Settles O11, by the operand's check: the shifted address fits the frame number. -/
theorem navF2pAnswersTheFrameNumber : Obligations.NavF2pAnswersTheFrameNumber := by
  intro a b s hp
  refine ⟨by simp [decode], fun ha => ?_, fun ha h => ?_, fun ha h => ?_⟩
  · rw [exec_navF2p, frameOperand_of_misaligned ha]
    exact accepting_idle hp
  · rw [exec_navF2p, frameOperand_of_ge ha h]
    exact accepting_idle hp
  · rw [exec_navF2p, frameOperand_of_lt ha h]
    refine (accepting_respond hp _).trans ?_
    rw [setWidth_ppn_setWidth (lt_of_lt_maxPages h)]

/-- Settles O12, by the operand's check and the formula of the frame. -/
theorem navP2fAnswersTheFrame : Obligations.NavP2fAnswersTheFrame := by
  intro a b s hp
  refine ⟨by simp [decode], fun h => ?_, fun h => ?_⟩
  · rw [exec_navP2f, poolPpnOperand_of_ge h]
    exact accepting_idle hp
  · rw [exec_navP2f, poolPpnOperand_of_lt h, ← frameWord_setWidth h]
    exact accepting_respond hp _

/-- Settles O13: an index that `NAV.INDEX` answers passes the index check of `NAV.ENTRYAT`, which leaves the check of
the level, first, and that of the frame. -/
theorem navEntryIsIndexThenEntryat : Obligations.NavEntryIsIndexThenEntryat := by
  intro table va l s hp
  unfold navEntry
  cases hl : levelOperand l with
  | error r =>
    refine .inl ⟨levelOperand_error hl, ?_⟩
    rw [exec_navIndex, hl]
    exact accepting_idle hp
  | ok v =>
    have hindex : exec (.navIndex va l) s =
        .next { s with rsp := some ((indexAt va v).setWidth 64), events := [] } := by
      rw [exec_navIndex, hl]
      exact accepting_respond hp _
    cases hf : frameOperand s.lastPpn table with
    | error r =>
      refine .inr ⟨_, hindex, ?_⟩
      rw [exec_navEntryat, hf]
      exact accepting_idle hp
    | ok f =>
      refine ⟨_, hindex, ?_⟩
      rw [exec_navEntryat, hf, indexOperand_setWidth]
      exact accepting_respond hp _

end Sys2Proof.Machine
end

section
/-! SUPPORT. The root registers and the rows of the phase machine (spec/43_translator.md R151 to R153, R160 to R163):
each row of `Row` as the next state that R153 writes out. -/

namespace Sys2Proof.Machine

/-- Settles O15, level by level. -/
theorem faultPredicateByLevel : Obligations.FaultPredicateByLevel := by
  intro e l
  cases l <;> simp [isFault, getValid, getRead, getWrite, Level.num, or_assoc]

/-! The root registers. -/

theorem exec_mmuSetroot (a : Word) (s : State) :
    exec (.mmuSetroot a) s = accepting (withOperand (frameOperand s.lastPpn a) setRoot) s :=
  rfl

theorem exec_mmuGetroot (s : State) : exec .mmuGetroot s = accepting getRoot s :=
  rfl

/-- The base address of a frame as a 64-bit word: the shift does not leave the 56 bits of an address. -/
theorem frameWord_eq_shiftLeft (p : Ppn) : frameWord p = p.setWidth 64 <<< 12 := by
  have := p.isLt
  refine BitVec.eq_of_toNat_eq ?_
  rw [frameWord_toNat, BitVec.toNat_shiftLeft, BitVec.toNat_setWidth, Nat.shiftLeft_eq]
  omega

/-- Settles O16, by the operand's check. -/
theorem setrootMakesTheRootOrAborts : Obligations.SetrootMakesTheRootOrAborts := by
  intro a b s hp
  refine ⟨by simp [decode], fun ha => ?_, fun ha h => ?_, fun ha h => ?_⟩
  · rw [exec_mmuSetroot, frameOperand_of_misaligned ha]
    exact accepting_idle hp
  · rw [exec_mmuSetroot, frameOperand_of_ge ha h]
    exact accepting_idle hp
  · rw [exec_mmuSetroot, frameOperand_of_lt ha h, accepting_idle hp, hp]
    rfl

/-- Settles O17: one clause for each value of `ROOT_SET`. -/
theorem getrootAnswersTheRootOrAborts : Obligations.GetrootAnswersTheRootOrAborts := by
  intro a b s hp
  refine ⟨by simp [decode], fun h => ?_, fun h => ?_⟩
  · rw [exec_mmuGetroot, accepting_idle hp, getRoot, if_pos h, respond, frameWord_eq_shiftLeft, hp]
  · rw [exec_mmuGetroot, accepting_idle hp, getRoot, if_neg (by simp [h]), raiseAbort]

/-- Without a root an access aborts before it has touched a latch (T1). -/
theorem runAccess_without_root {s : State} (h : s.rootSet = false) (op : AccessOp) (va b : Word) :
    runAccess op va b s = raiseAbort .rootUnset s := by
  rw [runAccess, startAccess, if_neg (by simp [h]), runRows_halt rfl]

/-- Settles O18, by the same abort for each of the three accesses. -/
theorem accessWithoutRootAborts : Obligations.AccessWithoutRootAborts := by
  intro va b s hp h
  have habort (op : AccessOp) :
      accepting (runAccess op va b) s = .next (raiseAbort .rootUnset (accepted s)) := by
    rw [accepting_accepted hp, runAccess_without_root (s := accepted s) h]
  exact ⟨habort .walk, habort .read, habort .write⟩

/-! The rows. -/

theorem not_inPool_iff {last p : Ppn} : inPool last p = false ↔ maxPages last ≤ p.toNat := by
  simp [inPool]

theorem Level.below_of_num {l m : Level} (h : l.num = m.num + 1) : l.below = some m := by
  cases l <;> cases m <;> simp_all [Level.num, Level.below]

/-- Settles O23: an address with the number of the entry's address is that address, and each clause is a row. -/
theorem phaseMachineWalkRows : Obligations.PhaseMachineWalkRows := by
  intro s hp
  refine ⟨fun h => (Row.t3 hp (not_inPool_iff.2 h)).phaseStep_eq, fun h ea e hea he => ?_⟩
  have ht := inPool_iff.2 h
  obtain rfl : ea = entryAt s.table (indexAt s.va s.level) := BitVec.eq_of_toNat_eq (by rw [hea, entryAt_toNat])
  subst he
  refine ⟨fun hf hn => ?_, fun hf hn => ?_, fun l hf hl => ?_, fun hf hl ho => ?_, fun hf hl ho => ?_⟩
  · rw [(Row.t4a hp ht hf hn).phaseStep_eq, ← frameWord_eq_shiftLeft]
    rfl
  · exact (Row.t4b hp ht hf hn).phaseStep_eq
  · rw [(Row.t4c l hp ht hf (Level.below_of_num hl)).phaseStep_eq, hp]
    rfl
  · exact (Row.t4d hp ht hf hl ho).phaseStep_eq
  · exact (Row.t4e hp ht hf hl ho).phaseStep_eq

/-- Settles O24: each clause is a row. -/
theorem phaseMachineWaitRows : Obligations.PhaseMachineWaitRows := fun _ p =>
  ⟨fun hp => ⟨fun hh => (Row.t5 p hp hh).phaseStep_eq, fun c hh => (Row.t6 c p hp hh).phaseStep_eq⟩,
    fun hp ha => ⟨fun hh => (Row.t8 p hp ha hh).phaseStep_eq, fun c hh => (Row.t9 c p hp ha hh).phaseStep_eq⟩⟩

/-- Settles O25: the bit is the one the operation needs, an address with the number of the byte's address is that
address, and each clause is a row. -/
theorem phaseMachineTransferRows : Obligations.PhaseMachineTransferRows := by
  intro s
  refine ⟨fun hp bit hbit => ?_, fun hp => ⟨fun h => ?_, fun h pa hpa => ?_⟩⟩
  · have hneed : need s.entry s.opc = some bit := by
      rcases hbit with ⟨ho, rfl⟩ | ⟨ho, rfl⟩ <;> rw [ho] <;> rfl
    refine ⟨?_, ?_, ?_⟩
    · rintro rfl
      exact (Row.t7a hp hneed).phaseStep_eq
    · rintro rfl hn
      rw [(Row.t7b hp hneed hn).phaseStep_eq, ← frameWord_eq_shiftLeft]
      rfl
    · rintro rfl hn
      exact (Row.t7c hp hneed hn).phaseStep_eq
  · exact (Row.t10 hp (not_inPool_iff.2 h)).phaseStep_eq
  · have hi := inPool_iff.2 h
    obtain rfl : pa = dataAddr (getPpn s.entry) s.va := BitVec.eq_of_toNat_eq (by rw [hpa, dataAddr_toNat, getPpn])
    exact ⟨fun ho => (Row.t11 hp hi ho).phaseStep_eq, fun ho => (Row.t12 hp hi ho).phaseStep_eq⟩

end Sys2Proof.Machine
end

section
/-! SUPPORT. An access on a mapped address (spec/43_translator.md R157 to R161, R172): the rows it takes, one after
another, without a call of the handler. -/

namespace Sys2Proof.Machine

/-! The rows of an access in sequence. -/

/-- A row is taken while the access is in progress. -/
theorem Row.in_progress {s t : State} (h : Row s t) : s.phase ≠ .idle ∧ s.phase ≠ .halt := by
  cases h with
  | t3 hp | t4a hp | t4b hp | t4c _ hp | t4d hp | t4e hp | t5 _ hp | t6 _ _ hp | t6abort _ _ hp | t7a hp | t7b hp
  | t7c hp | t8 _ hp | t9 _ _ hp | t9abort _ _ hp | t10 hp | t11 hp | t12 hp => simp [hp]

/-- `t` comes after at most `n` rows from `s`. -/
inductive Rows : Nat → State → State → Prop where
  | refl (n : Nat) (s : State) : Rows n s s
  | step {n : Nat} {s t u : State} (h : Row s t) (hs : Rows n t u) : Rows (n + 1) s u

theorem Rows.one {s t : State} (h : Row s t) : Rows 1 s t := .step h (.refl 0 t)

theorem Rows.mono {n m : Nat} {s t : State} (h : Rows n s t) (hm : n ≤ m) : Rows m s t := by
  induction h generalizing m with
  | refl n s => exact .refl m s
  | step hr hs ih =>
    obtain ⟨m, rfl⟩ := Nat.exists_eq_add_of_le' (Nat.lt_of_lt_of_le (Nat.succ_pos _) hm)
    exact .step hr (ih (Nat.le_of_succ_le_succ hm))

theorem Rows.trans {n m : Nat} {s t u : State} (h : Rows n s t) (h' : Rows m t u) : Rows (n + m) s u := by
  induction h with
  | refl n s => exact h'.mono (Nat.le_add_left m n)
  | step hr hs ih => exact Nat.succ_add _ m ▸ .step hr (ih h')

/-- Rows that lead to where no further row is taken are the whole run. -/
theorem Rows.runRows_eq {n k : Nat} {s t : State} (h : Rows n s t) (hk : n ≤ k) (hend : ∀ m, runRows m t = t) :
    runRows k s = t := by
  induction h generalizing k with
  | refl n s => exact hend k
  | step hr hs ih =>
    obtain ⟨k, rfl⟩ := Nat.exists_eq_add_of_le' (Nat.lt_of_lt_of_le (Nat.succ_pos _) hk)
    rw [runRows_succ hr.in_progress.1 hr.in_progress.2 hr.phaseStep_eq]
    exact ih (Nat.le_of_succ_le_succ hk) hend

/-! The path of a mapped address. -/

section
variable {s : State} {va : Word} (h : Mapped s va)
include h

theorem Mapped.noFault2 : isFault (entry2 s va) .l2 = false := by
  rw [isFault_eq_not_isPointer _ (by decide), h.pointer2, Bool.not_true]

theorem Mapped.noFault1 : isFault (entry1 s va) .l1 = false := by
  rw [isFault_eq_not_isPointer _ (by decide), h.pointer1, Bool.not_true]

theorem Mapped.noFault0 : isFault (entry0 s va) .l0 = false := by
  rw [isFault_eq_not_isLeaf, h.leaf, Bool.not_true]

end

/-- The access as it is about to fetch the leaf entry, two descents after its start. -/
def atLeafTable (op : AccessOp) (va b : Word) (s : State) : State :=
  { s with
    phase := .walk, opc := op, va := va, wdata := b.extractLsb' 0 8, level := .l0, table := getPpn (entry1 s va)
    eaddr := entryAt (getPpn (entry2 s va)) (indexAt va .l1), entry := entry1 s va, faulted := false, rsp := none
    events := [.fetch (entryAt s.root (indexAt va .l2)), .fetch (entryAt (getPpn (entry2 s va)) (indexAt va .l1))] }

/-- On a mapped address the interior entries lead to the leaf table (T4c twice). -/
theorem Mapped.rows_to_leaf {s : State} {va : Word} (h : Mapped s va) (op : AccessOp) (b : Word) :
    Rows 2 (startAccess op va b (accepted s)) (atLeafTable op va b s) := by
  rw [startAccess, if_pos (show (accepted s).rootSet = true from h.rootSet)]
  exact .step (.t4c .l1 rfl h.rootInside h.noFault2 rfl) (.step (.t4c .l0 rfl h.inside1 h.noFault1 rfl) (.refl 0 _))

/-- The whole access on a mapped address, from the rows that follow the descents to the answer. -/
theorem Mapped.runAccess_eq {s t : State} {va : Word} (h : Mapped s va) {op : AccessOp} {b : Word} {n : Nat}
    (hn : n ≤ 14) (hr : Rows n (atLeafTable op va b s) t) (ht : t.phase = .idle) :
    runAccess op va b (accepted s) = t :=
  ((h.rows_to_leaf op b).trans hr).runRows_eq (Nat.add_le_add_left hn 2) fun _ => runRows_idle ht

/-- The access in the permission round, after the fetch of the leaf entry. -/
theorem Mapped.row_to_perm {s : State} {va : Word} (h : Mapped s va) {op : AccessOp} (ho : op ≠ .walk) (b : Word) :
    Row (atLeafTable op va b s) (enterPerm (fetched (atLeafTable op va b s))) :=
  .t4e rfl h.inside0 h.noFault0 rfl ho

/-- Settles O19: the two descents, then the answer of a walk (T4d). -/
theorem walkAnswersTheLeafEntryAddress : Obligations.WalkAnswersTheLeafEntryAddress := by
  intro va b s hp h
  have hanswer : Row (atLeafTable .walk va b s) _ := .t4d rfl h.inside0 h.noFault0 rfl rfl
  refine (accepting_accepted hp).trans ?_
  rw [h.runAccess_eq (by decide) (.one hanswer) rfl, hp]
  rfl

/-- Settles O20: the two descents, then the leaf, the read bit and the load (T4e, T7a, T11). -/
theorem readAnswersTheTranslatedByte : Obligations.ReadAnswersTheTranslatedByte := by
  intro va b s hp h hbit hin
  have hperm := h.row_to_perm (op := .read) (by decide) b
  have hxfer : Row _ (enterXfer (enterPerm (fetched (atLeafTable .read va b s)))) := .t7a rfl (congrArg some hbit)
  have hload : Row (enterXfer (enterPerm (fetched (atLeafTable .read va b s)))) _ := .t11 rfl (inPool_iff.2 hin) rfl
  refine (accepting_accepted hp).trans ?_
  rw [h.runAccess_eq (by decide) (.step hperm (.step hxfer (.one hload))) rfl, hp, ← dataAddr_toNat]
  rfl

/-- Settles O21: the two descents, then the leaf, the write bit and the store (T4e, T7a, T12). -/
theorem writeStoresOneByte : Obligations.WriteStoresOneByte := by
  intro va b s hp h hbit hin hwf
  have hperm := h.row_to_perm (op := .write) (by decide) b
  have hxfer : Row _ (enterXfer (enterPerm (fetched (atLeafTable .write va b s)))) := .t7a rfl (congrArg some hbit)
  have hstore : Row (enterXfer (enterPerm (fetched (atLeafTable .write va b s)))) _ := .t12 rfl (inPool_iff.2 hin) rfl
  refine ⟨memWrite1 s.pool.mem (translate s va).toNat (b.extractLsb' 0 8), (accepting_accepted hp).trans ?_,
    fun a => ?_⟩
  · rw [h.runAccess_eq (by decide) (.step hperm (.step hxfer (.one hstore))) rfl, hp]
    rfl
  · rw [memRead1_write1 hwf, translate, dataAddr_toNat]

end Sys2Proof.Machine
end

section
/-! SUPPORT. The phase machine follows the sequential form of an access, piece by piece (spec/43_translator.md R153,
R166). -/

namespace Sys2Proof.Machine

/-! An access in progress. -/

/-- What an access in `t` has changed so far outside the walker's registers. -/
def State.now (t : State) : Scene := { t.scene with events := t.events }

/-- The access `op` at `va` with the datum `w`, accepted in `s`, has come to `t` without an answer. -/
structure InProgress (s : State) (op : AccessOp) (va : Word) (w : Byte) (t : State) : Prop where
  setup   : SameSetup s t
  opc     : t.opc = op
  latched : t.va = va
  datum   : t.wdata = w
  silent  : t.rsp = none

/-- It is about to evaluate its entry of level `l` in the table `tab`. -/
structure Walking (s : State) (op : AccessOp) (va : Word) (w : Byte) (l : Level) (tab : Ppn) (t : State) : Prop
    extends InProgress s op va w t where
  phase : t.phase = .walk
  level : t.level = l
  table : t.table = tab

/-- The evaluation goes on: the table is a frame of the pool and its entry no fault. -/
structure Passing (s : State) (op : AccessOp) (va : Word) (w : Byte) (l : Level) (tab : Ppn) (t : State) : Prop
    extends Walking s op va w l tab t where
  inside  : inPool t.lastPpn t.table = true
  noFault : isFault (fetched t).entry t.level = false

/-- It has walked to the leaf entry `e` of the table `tab` and is about to check its permission bit. -/
structure Permitting (s : State) (op : AccessOp) (va : Word) (w : Byte) (tab : Ppn) (e : Word) (t : State) : Prop
    extends InProgress s op va w t where
  phase  : t.phase = .perm
  table  : t.table = tab
  inside : inPool s.lastPpn tab = true
  eaddr  : t.eaddr = entryAt tab (indexAt va .l0)
  entry  : t.entry = e

/-- It is about to move the byte in the frame of the entry `e`. -/
structure Transferring (s : State) (op : AccessOp) (va : Word) (w : Byte) (e : Word) (t : State) : Prop
    extends InProgress s op va w t where
  phase : t.phase = .xfer
  entry : t.entry = e

/-- The access has been answered with `r`. -/
def Answered (r : Word) (t : State) : Prop := t.phase = .idle ∧ t.rsp = some r

theorem Row.latches {s t : State} (h : Row s t) : t.opc = s.opc ∧ t.va = s.va ∧ t.wdata = s.wdata := by
  cases h <;> exact ⟨rfl, rfl, rfl⟩

/-- A row that does not answer keeps the access in progress. -/
theorem InProgress.row {s t u : State} {op : AccessOp} {va : Word} {w : Byte} (h : InProgress s op va w t)
    (hr : Row t u) (hu : u.phase ≠ .idle) : InProgress s op va w u := by
  obtain ⟨hopc, hva, hw⟩ := hr.latches
  exact ⟨h.setup.trans hr.sameSetup, hopc.trans h.opc, hva.trans h.latched, hw.trans h.datum,
    (hr.status.2 hu).trans h.silent⟩

/-! A piece of the sequential form and the rows that follow it. -/

/-- Within `n` rows from `t` the phase machine comes to where the piece goes on with its value, a state of `K`, or to a
state that shows how the piece ends the access; the scene is the piece's. -/
def Follows {α : Type} (va : Word) (n : Nat) (t : State) (K : α → State → Prop) : SeqResult α → Prop
  | .goes v c => ∃ u, Rows n t u ∧ u.now = c ∧ K v u
  | .ends x c => ∃ u, Rows n t u ∧ u.now = c ∧ u.rsp = none ∧ u.Shows va x

section
variable {α β : Type} {va : Word} {n m : Nat} {t : State} {K : α → State → Prop} {L : β → State → Prop}

theorem Follows.row {r : SeqResult α} {u : State} (hr : Row t u) (h : Follows va n u K r) :
    Follows va (n + 1) t K r := by
  cases r <;> exact h.imp fun _ hv => hv.imp_left (.step hr)

theorem Follows.mono {r : SeqResult α} (h : Follows va n t K r) (hm : n ≤ m) : Follows va m t K r := by
  cases r <;> exact h.imp fun _ hv => hv.imp_left (·.mono hm)

theorem Follows.after {r : SeqResult α} {u : State} (hr : Rows n t u) (h : Follows va m u K r) :
    Follows va (n + m) t K r := by
  cases r <;> exact h.imp fun _ hv => hv.imp_left hr.trans

theorem Follows.andThen {r : SeqResult α} {k : α → Scene → SeqResult β} (h : Follows va n t K r)
    (hk : ∀ v u, K v u → Follows va m u L (k v u.now)) : Follows va (n + m) t L (r.andThen k) := by
  cases r with
  | goes v c =>
    obtain ⟨u, hrows, rfl, hu⟩ := h
    exact (hk v u hu).after hrows
  | ends x c => exact h.imp fun _ hu => hu.imp_left (·.mono (Nat.le_add_right n m))

end

/-- The wait of the permission round, at a populated entry. -/
theorem phaseStep_pwait {s : State} (hp : s.phase = .pwait) (ha : s.eaddr.toNat + 8 ≤ poolBytes s.lastPpn) :
    phaseStep s = awaitHandler .l0 resumePerm s := by
  simp only [phaseStep, hp, pwaitRow, populated, ha, decide_true, if_true]

/-! The handler's turn (T4a to T6, T7b to T9). -/

/-- The handler of `t` is the one of `s`. -/
theorem handlerTurn_setup {s t : State} (h : SameSetup s t) (r : FaultRequest) :
    handlerTurn { s with pool := t.pool, agentTurns := t.agentTurns } r = handlerTurn t r := by
  simp only [handlerTurn, h.handler, h.lastPpn]

theorem turnsAfter_setup {s t : State} (h : SameSetup s t) :
    turnsAfter { s with pool := t.pool, agentTurns := t.agentTurns } = turnsAfter t := by
  simp only [turnsAfter, h.handler]

/-- The piece that a turn of the handler is for the walker that waits in `u`. -/
def HandlerResult.piece (u : State) : HandlerResult → SeqResult Unit
  | .completes .done p => .goes () (afterTurn u p).now
  | .completes (.terminate c) p => .ends (.terminates c) (afterTurn u p).now
  | .aborts r p => .ends (.aborts r) (afterTurn u p).now
  | .stuck f => .ends (.hangs f) u.now

/-- A call in the sequential form is the turn of the handler called from the state that the access has come to. -/
theorem seqCall_eq {s v : State} (h : SameSetup s v) (l : Level) (wait : Phase) :
    seqCall s v.va l v.table v.now =
      (handlerTurn (callHandler l wait v) (faultRequest (callHandler l wait v) l)).piece (callHandler l wait v) := by
  have hturn : handlerTurn { s with pool := v.pool, agentTurns := v.agentTurns } ⟨v.va, l, frameWord v.table⟩ =
      handlerTurn (callHandler l wait v) (faultRequest (callHandler l wait v) l) := handlerTurn_setup h _
  simp only [seqCall, State.now, State.scene, hturn, turnsAfter_setup h]
  rcases handlerTurn (callHandler l wait v) _ with ⟨_ | _, _⟩ | _ | _ <;> rfl

section
variable {s : State} {op : AccessOp} {va : Word} {w : Byte}

/-- A call of the handler, in either wait: the turn ends the access, or the walker resumes. -/
theorem InProgress.follows_call {α : Type} {K : α → State → Prop} {k : Unit → Scene → SeqResult α} {n : Nat}
    {v : State} {l : Level} {wait : Phase} {resume : State → State} (hv : InProgress s op va w v)
    (hwait : wait = .hwait ∨ wait = .pwait)
    (hstep : phaseStep (callHandler l wait v) = awaitHandler l resume (callHandler l wait v))
    (hdone : ∀ p, Row (callHandler l wait v) (resume (afterTurn (callHandler l wait v) p)) →
      Follows va n (resume (afterTurn (callHandler l wait v) p)) K (k () (afterTurn (callHandler l wait v) p).now)) :
    Follows va (n + 1) (callHandler l wait v) K ((seqCall s va l v.table v.now).andThen k) := by
  have hidle : (callHandler l wait v).phase ≠ .idle := by rcases hwait with rfl | rfl <;> simp
  have hsilent : (callHandler l wait v).rsp = none := hv.silent
  have hstop (u : State) (hu : phaseStep (callHandler l wait v) = .ok u) : Rows (n + 1) (callHandler l wait v) u :=
    (Rows.one (phaseStep_row hu hidle)).mono (Nat.le_add_left 1 n)
  rw [← hv.latched, seqCall_eq hv.setup l wait, hv.latched]
  rw [awaitHandler] at hstep
  cases hh : handlerTurn (callHandler l wait v) (faultRequest (callHandler l wait v) l) with
  | completes c p =>
    rw [hh] at hstep
    cases c with
    | done =>
      have hr := phaseStep_row hstep hidle
      exact (hdone p hr).row hr
    | terminate c => exact ⟨_, hstop _ hstep, rfl, hsilent, rfl, hsilent, rfl, rfl⟩
  | aborts r p =>
    rw [hh] at hstep
    exact ⟨_, hstop _ hstep, rfl, hsilent, rfl, hsilent, rfl, rfl, rfl⟩
  | stuck f =>
    have herror : phaseStep (callHandler l wait v) = .error f := by rw [hstep, hh]
    exact ⟨_, .refl _ _, rfl, hsilent, hwait, hsilent, herror⟩

/-! The walk (T3 to T6). -/

theorem Walking.seqFetch_eq {l : Level} {tab : Ppn} {t : State} (h : Walking s op va w l tab t) :
    seqFetch (entryAt tab (indexAt va l)) t.now = .goes (fetched t).entry (fetched t).now := by
  rw [← h.latched, ← h.level, ← h.table]
  rfl

/-- The evaluation after a call: the fault is fatal, or the walk goes on. -/
theorem Walking.follows_retry {l : Level} {tab : Ppn} {t : State} {K : Word → State → Prop}
    (h : Walking s op va w l tab t) (hn : t.faulted = true) (hin : inPool s.lastPpn tab = true)
    (hpass : isFault (fetched t).entry l = false → Follows va 1 t K (.goes (fetched t).entry (fetched t).now)) :
    Follows va 1 t K ((seqFetch (entryAt tab (indexAt va l)) t.now).andThen fun e c =>
      if isFault e l then .ends (.fatal l e) c else .goes e c) := by
  rw [h.seqFetch_eq, SeqResult.andThen]
  cases hf : isFault (fetched t).entry l with
  | false => exact hpass hf
  | true =>
    obtain ⟨hprog, hphase, rfl, rfl⟩ := h
    have hrow := Row.t4b hphase (hprog.setup.lastPpn ▸ hin) hf hn
    exact ⟨_, .one hrow, rfl, hprog.silent, rfl, hprog.silent, rfl, rfl, rfl, hprog.latched, rfl, rfl, rfl⟩

/-- One round of the walk: at most two evaluations with a call between them. -/
theorem Walking.follows_round {l : Level} {tab : Ppn} {t : State} {K : Word → State → Prop}
    (h : Walking s op va w l tab t) (hn : t.faulted = false)
    (hpass : ∀ v, Passing s op va w l tab v → Follows va 1 v K (.goes (fetched v).entry (fetched v).now)) :
    Follows va 3 t K (seqRound s va l tab t.now) := by
  rw [seqRound, h.seqFetch_eq, SeqResult.andThen]
  obtain ⟨hprog, hphase, rfl, rfl⟩ := id h
  cases hin : inPool s.lastPpn t.table with
  | false =>
    have hrow : Row t (raiseAbort .frameRange t) := .t3 hphase (hprog.setup.lastPpn ▸ hin)
    exact ⟨_, (Rows.one hrow).mono (by decide), rfl, hprog.silent, rfl, hprog.silent, rfl, rfl, rfl⟩
  | true =>
    have hin' : inPool t.lastPpn t.table = true := hprog.setup.lastPpn ▸ hin
    cases hf : isFault (fetched t).entry t.level with
    | false => exact (hpass t ⟨h, hin', hf⟩).mono (by decide)
    | true =>
      have hcall : Row t (callHandler t.level .hwait (fetched t)) := .t4a hphase hin' hf hn
      have hfetched : InProgress s op va w (fetched t) := { hprog with setup := { hprog.setup with } }
      refine .row hcall (hfetched.follows_call (n := 1) (.inl rfl) rfl fun p hr => ?_)
      have hretry : Walking s op va w t.level t.table _ :=
        ⟨(hprog.row hcall (by simp)).row hr (by simp), rfl, rfl, rfl⟩
      exact hretry.follows_retry rfl hin fun hf' => hpass _ ⟨hretry, hin', hf'⟩

/-- Down to the table the entry names (T4c). -/
theorem Passing.follows_descend {l m : Level} {tab : Ppn} {t : State} (h : Passing s op va w l tab t)
    (hl : l.below = some m) :
    Follows va 1 t (fun e u => Walking s op va w m (getPpn e) u ∧ u.faulted = false)
      (.goes (fetched t).entry (fetched t).now) := by
  have hrow := Row.t4c m h.phase h.inside h.noFault (h.level ▸ hl)
  exact ⟨_, .one hrow, rfl, ⟨h.toInProgress.row hrow (by simp), rfl, rfl, rfl⟩, rfl⟩

/-- The walk is three rounds; `hleaf` says what the last evaluation leads to. -/
theorem Walking.follows_walk {t : State} {K : Ppn → Word → State → Prop} (h : Walking s op va w .l2 s.root t)
    (hn : t.faulted = false) (hset : s.rootSet = true)
    (hleaf : ∀ tab v, Passing s op va w .l0 tab v →
      Follows va 1 v (K tab) (.goes (fetched v).entry (fetched v).now)) :
    Follows va 9 t (fun x => K x.1 x.2) (seqWalk s va t.now) := by
  rw [seqWalk, if_pos hset]
  refine .andThen (n := 3) (m := 6) (h.follows_round hn fun _ hv => hv.follows_descend rfl) ?_
  intro e1 t1 ⟨h1, hn1⟩
  refine .andThen (n := 3) (m := 3) (h1.follows_round hn1 fun _ hv => hv.follows_descend rfl) ?_
  intro e0 t0 ⟨h0, hn0⟩
  refine .andThen (n := 3) (m := 0) (h0.follows_round hn0 (hleaf _)) ?_
  exact fun e u hu => ⟨u, .refl 0 u, rfl, hu⟩

/-! The permission round and the transfer (T7 to T12). -/

/-- The needed bit is set (T7a). -/
theorem Permitting.follows_grant {tab : Ppn} {e : Word} {t : State} (h : Permitting s op va w tab e t)
    (hneed : need t.entry t.opc = some true) : Follows va 1 t (Transferring s op va w) (.goes e t.now) :=
  ⟨_, .one (.t7a h.phase hneed), rfl, h.toInProgress.row (.t7a h.phase hneed) (by simp), rfl, h.entry⟩

/-- The check after a call: the bit is set, or the fault is fatal. -/
theorem Permitting.follows_retry {bit : Word → Bool} (hbit : ∀ e, need e op = some (bit e)) {tab : Ppn} {e : Word}
    {t : State} (h : Permitting s op va w tab e t) (hn : t.faulted = true) :
    Follows va 1 t (Transferring s op va w) (if bit e then .goes e t.now else .ends (.fatal .l0 e) t.now) := by
  have hneed : need t.entry t.opc = some (bit e) := by rw [h.opc, h.entry, hbit]
  cases hb : bit e with
  | true => exact h.follows_grant (hb ▸ hneed)
  | false =>
    obtain rfl := h.entry
    have hrow := Row.t7c h.phase (hb ▸ hneed) hn
    exact ⟨_, .one hrow, rfl, h.silent, rfl, h.silent, rfl, rfl, rfl, h.latched, rfl, rfl, rfl⟩

/-- The permission round: at most two checks with a call and a fetch between them. -/
theorem Permitting.follows_permit {bit : Word → Bool} (hbit : ∀ e, need e op = some (bit e)) {tab : Ppn} {e : Word}
    {t : State} (h : Permitting s op va w tab e t) (hn : t.faulted = false) :
    Follows va 3 t (Transferring s op va w) (seqPermit s bit va tab e t.now) := by
  have hneed : need t.entry t.opc = some (bit e) := by rw [h.opc, h.entry, hbit]
  rw [seqPermit]
  cases hb : bit e with
  | true => exact (h.follows_grant (hb ▸ hneed)).mono (by decide)
  | false =>
    have hcall := Row.t7b h.phase (hb ▸ hneed) hn
    obtain ⟨hprog, -, rfl, hin, headdr, -⟩ := h
    have hwait := phaseStep_pwait (s := callHandler .l0 .pwait t) rfl
      (by simpa [headdr, hprog.setup.lastPpn] using entryAt_populated hin (indexAt va .l0))
    refine .row hcall (hprog.follows_call (n := 1) (.inr rfl) hwait fun p hr => ?_)
    rw [← headdr]
    exact Permitting.follows_retry hbit (tab := t.table)
      ⟨(hprog.row hcall (by simp)).row hr (by simp), rfl, rfl, hin, headdr, rfl⟩ rfl

/-- A transfer out of the pool (T10). -/
theorem Transferring.follows_abort {e : Word} {t : State} (h : Transferring s op va w e t)
    (hin : inPool s.lastPpn (getPpn e) = false) :
    Follows va 1 t Answered (.ends (.aborts .frameRange) t.now) := by
  have hrow : Row t (raiseAbort .frameRange t) := .t10 h.phase (by rw [h.setup.lastPpn, h.entry, hin])
  exact ⟨_, .one hrow, rfl, h.silent, rfl, h.silent, rfl, rfl, rfl⟩

/-- The transfer of a read (T10, T11). -/
theorem Transferring.follows_load {e : Word} {t : State} (h : Transferring s .read va w e t) :
    Follows va 1 t Answered
      (if inPool s.lastPpn (getPpn e) then
        .goes ((memRead1 t.now.pool.mem (dataAddr (getPpn e) va).toNat).setWidth 64)
          { t.now with events := t.now.events ++ [.load (dataAddr (getPpn e) va)] }
      else .ends (.aborts .frameRange) t.now) := by
  cases hin : inPool s.lastPpn (getPpn e) with
  | false => exact h.follows_abort hin
  | true =>
    have hrow := Row.t11 h.phase (by rw [h.setup.lastPpn, h.entry, hin]) h.opc
    rw [← h.latched, ← h.entry]
    exact ⟨_, .one hrow, rfl, rfl, rfl⟩

/-- The transfer of a write (T10, T12). -/
theorem Transferring.follows_store {e : Word} {t : State} (h : Transferring s .write va w e t) :
    Follows va 1 t Answered
      (if inPool s.lastPpn (getPpn e) then
        .goes 0
          { t.now with
            pool := { t.now.pool with mem := memWrite1 t.now.pool.mem (dataAddr (getPpn e) va).toNat w }
            events := t.now.events ++ [.store (dataAddr (getPpn e) va) w] }
      else .ends (.aborts .frameRange) t.now) := by
  cases hin : inPool s.lastPpn (getPpn e) with
  | false => exact h.follows_abort hin
  | true =>
    have hrow := Row.t12 h.phase (by rw [h.setup.lastPpn, h.entry, hin]) h.opc
    rw [← h.latched, ← h.entry, ← h.datum]
    exact ⟨_, .one hrow, rfl, rfl, rfl⟩

/-! The whole access. -/

/-- A walk answers the address of the leaf entry (T4d). -/
theorem Passing.follows_answer {tab : Ppn} {t : State} (h : Passing s .walk va w .l0 tab t) :
    Follows va 1 t (fun _ => Answered ((entryAt tab (indexAt va .l0)).setWidth 64))
      (.goes (fetched t).entry (fetched t).now) := by
  have hrow := Row.t4d h.phase h.inside h.noFault h.level h.opc
  obtain ⟨⟨hprog, -, hlevel, rfl⟩, -, -⟩ := h
  obtain rfl := hprog.latched
  exact ⟨_, .one hrow, rfl, rfl, by simp [fetched, hlevel]⟩

/-- A read or a write goes on to the permission round (T4e). -/
theorem Passing.follows_enter {tab : Ppn} {t : State} (h : Passing s op va w .l0 tab t) (ho : op ≠ .walk) :
    Follows va 1 t (fun e u => Permitting s op va w tab e u ∧ u.faulted = false)
      (.goes (fetched t).entry (fetched t).now) := by
  have hrow := Row.t4e h.phase h.inside h.noFault h.level (h.opc ▸ ho)
  have hprog := h.toInProgress.row hrow (by simp)
  obtain ⟨⟨⟨hsetup, -, rfl, -, -⟩, -, hlevel, rfl⟩, hin, -⟩ := h
  exact ⟨_, .one hrow, rfl, ⟨hprog, rfl, rfl, hsetup.lastPpn ▸ hin, by simp [fetched, hlevel], rfl⟩, rfl⟩

/-- A read or a write: the walk, the permission round for its bit and its transfer. -/
theorem Walking.follows_access {bit : Word → Bool} (hbit : ∀ e, need e op = some (bit e)) (ho : op ≠ .walk) {t : State}
    (h : Walking s op va w .l2 s.root t) (hn : t.faulted = false) (hset : s.rootSet = true)
    {transfer : Word → Scene → SeqResult Word}
    (htransfer : ∀ e u, Transferring s op va w e u → Follows va 1 u Answered (transfer e u.now)) :
    Follows va 13 t Answered
      ((seqWalk s va t.now).andThen fun x c => (seqPermit s bit va x.1 x.2 c).andThen transfer) := by
  refine .andThen (n := 9) (m := 4) (h.follows_walk hn hset fun _ _ hv => hv.follows_enter ho) ?_
  intro x t ⟨hperm, hn⟩
  exact .andThen (n := 3) (m := 1) (hperm.follows_permit hbit hn) htransfer

end

/-- The piece that a whole access is. -/
def seqPiece (s : State) (op : AccessOp) (va b : Word) (c : Scene) : SeqResult Word :=
  match op with
  | .walk => (seqWalk s va c).andThen fun w c => .goes ((entryAt w.1 (indexAt va .l0)).setWidth 64) c
  | .read => seqRead s va c
  | .write => seqWrite s va (b.extractLsb' 0 8) c

/-- How a piece with an answer ends the access. -/
def SeqResult.ending : SeqResult Word → Ending × Scene
  | .goes v c => (.answers v, c)
  | .ends x c => (x, c)

theorem seqAccess_eq (s : State) (op : AccessOp) (va b : Word) (c : Scene) :
    seqAccess s op va b c = (seqPiece s op va b c).ending := by
  cases op <;> rfl

/-- With a root, an access starts its walk at level 2 in the root table (T2). -/
theorem startAccess_walking {s : State} (hset : s.rootSet = true) (op : AccessOp) (va b : Word) :
    Walking s op va (b.extractLsb' 0 8) .l2 s.root (startAccess op va b (accepted s))
      ∧ (startAccess op va b (accepted s)).faulted = false ∧ (startAccess op va b (accepted s)).now = s.scene := by
  rw [startAccess, if_pos (show (accepted s).rootSet = true from hset)]
  exact ⟨⟨⟨⟨rfl, rfl, rfl, rfl⟩, rfl, rfl, rfl, rfl⟩, rfl, rfl, rfl⟩, rfl, rfl⟩

/-- With a root, an access follows its sequential form within 13 rows: 9 of the walk, 3 of the permission round and the
transfer. -/
theorem follows_seqPiece {s : State} (hset : s.rootSet = true) (op : AccessOp) (va b : Word) :
    Follows va 13 (startAccess op va b (accepted s)) Answered (seqPiece s op va b s.scene) := by
  obtain ⟨hstart, hn, hnow⟩ := startAccess_walking hset op va b
  rw [← hnow]
  cases op with
  | walk =>
    refine .andThen (n := 9) (m := 4) (hstart.follows_walk hn hset fun _ _ hv => hv.follows_answer) ?_
    exact fun x u hu => ⟨u, .refl 4 u, rfl, hu⟩
  | read => exact hstart.follows_access (fun _ => rfl) (by decide) hn hset fun _ _ hu => hu.follows_load
  | write => exact hstart.follows_access (fun _ => rfl) (by decide) hn hset fun _ _ hu => hu.follows_store

/-- The whole access in `t` has ended as the piece `r` does. -/
def Concludes (va : Word) (t : State) : SeqResult Word → Prop
  | .goes v c => t.now = c ∧ Answered v t
  | .ends x c => t.now = c ∧ t.rsp = none ∧ t.Shows va x

/-- A state that shows an ending takes no further row. -/
theorem State.Shows.runRows_eq {t : State} {va : Word} {x : Ending} (h : t.Shows va x) (n : Nat) : runRows n t = t := by
  cases x with
  | answers => exact runRows_idle h.1
  | fatal | aborts | terminates => exact runRows_halt h.1
  | hangs => exact runRows_stuck h.2.2

theorem Follows.concludes {va : Word} {n k : Nat} {t : State} {r : SeqResult Word} (h : Follows va n t Answered r)
    (hk : n ≤ k) : Concludes va (runRows k t) r := by
  cases r with
  | goes v c =>
    obtain ⟨u, hrows, hnow, hanswer⟩ := h
    rw [hrows.runRows_eq hk fun _ => runRows_idle hanswer.1]
    exact ⟨hnow, hanswer⟩
  | ends x c =>
    obtain ⟨u, hrows, hnow, hsilent, hshows⟩ := h
    rw [hrows.runRows_eq hk hshows.runRows_eq]
    exact ⟨hnow, hsilent, hshows⟩

/-- A whole access ends as its sequential form does. -/
theorem runAccess_concludes (s : State) (op : AccessOp) (va b : Word) :
    Concludes va (runAccess op va b (accepted s)) (seqPiece s op va b s.scene) := by
  cases hset : s.rootSet with
  | true => exact (follows_seqPiece hset op va b).concludes (by decide)
  | false =>
    have hpiece : seqPiece s op va b s.scene = .ends (.aborts .rootUnset) s.scene := by
      cases op <;> simp [seqPiece, seqRead, seqWrite, seqWalk, hset, SeqResult.andThen]
    rw [hpiece, runAccess_without_root (s := accepted s) hset]
    exact ⟨rfl, rfl, rfl, rfl, rfl, rfl, rfl⟩

theorem Concludes.shows {va : Word} {t : State} {r : SeqResult Word} (h : Concludes va t r) :
    t.Shows va r.ending.1 ∧ t.now = r.ending.2 := by
  cases r with
  | goes v c => exact ⟨h.2, h.1⟩
  | ends x c => exact ⟨h.2.2, h.1⟩

/-- Settles O26: each access runs its rows, and they conclude as the piece that the access is. -/
theorem sequentialFormAgrees : Obligations.SequentialFormAgrees := by
  intro s va b hp
  have agree (op : AccessOp) : ∃ t, accepting (runAccess op va b) s = .next t
      ∧ t.Shows va (seqAccess s op va b s.scene).1 ∧ t.pool = (seqAccess s op va b s.scene).2.pool
      ∧ t.agentTurns = (seqAccess s op va b s.scene).2.turns ∧ t.events = (seqAccess s op va b s.scene).2.events := by
    obtain ⟨hshows, hnow⟩ := (runAccess_concludes s op va b).shows
    rw [seqAccess_eq, ← hnow]
    exact ⟨_, accepting_accepted hp, hshows, rfl, rfl, rfl⟩
  exact ⟨agree .walk, agree .read, agree .write⟩

end Sys2Proof.Machine
end

section
/-! SUPPORT. What the sequential form of an access says of the machine (spec/43_translator.md R164, R165, R172): the
counts of its record, and under the null handler when it answers and what it stores. -/

namespace Sys2Proof.Machine

/-! The counts of a piece (R164). -/

/-- From the scene `c` on, the piece records at most `nc` calls and `nf` fetches; where it goes on, at least `lo`
fetches and exactly `nd` data accesses, and where it ends the access, no data access. -/
def SeqResult.Counts {α : Type} (c : Scene) (nc nf lo nd : Nat) : SeqResult α → Prop
  | .goes _ d =>
    calls d.events ≤ calls c.events + nc ∧ fetches d.events ≤ fetches c.events + nf
      ∧ fetches c.events + lo ≤ fetches d.events ∧ dataAccesses d.events = dataAccesses c.events + nd
  | .ends _ d =>
    calls d.events ≤ calls c.events + nc ∧ fetches d.events ≤ fetches c.events + nf
      ∧ dataAccesses d.events = dataAccesses c.events

theorem counts_goes {α : Type} (v : α) (c : Scene) (nc nf : Nat) : (SeqResult.goes v c).Counts c nc nf 0 0 :=
  ⟨Nat.le_add_right _ _, Nat.le_add_right _ _, Nat.le_refl _, rfl⟩

theorem counts_ends {α : Type} (x : Ending) (c : Scene) (nc nf lo nd : Nat) :
    (SeqResult.ends (α := α) x c).Counts c nc nf lo nd :=
  ⟨Nat.le_add_right _ _, Nat.le_add_right _ _, rfl⟩

/-- The counts of two pieces add up; the first makes no data access. -/
theorem SeqResult.Counts.andThen {α β : Type} {c : Scene} {nc nf lo nc' nf' lo' nd : Nat} {r : SeqResult α}
    {k : α → Scene → SeqResult β} (h : r.Counts c nc nf lo 0) (hk : ∀ v d, (k v d).Counts d nc' nf' lo' nd) :
    (r.andThen k).Counts c (nc + nc') (nf + nf') (lo + lo') nd := by
  cases r with
  | ends x d =>
    obtain ⟨hcalls, hfetches, hdata⟩ := h
    exact ⟨by omega, by omega, hdata⟩
  | goes v d =>
    obtain ⟨hcalls, hfetches, hlow, hdata⟩ := h
    have hnext := hk v d
    rw [SeqResult.andThen]
    cases hr : k v d with
    | goes _ d' =>
      rw [hr] at hnext
      obtain ⟨hcalls', hfetches', hlow', hdata'⟩ := hnext
      exact ⟨by omega, by omega, by omega, by omega⟩
    | ends _ d' =>
      rw [hr] at hnext
      obtain ⟨hcalls', hfetches', hdata'⟩ := hnext
      exact ⟨by omega, by omega, by omega⟩

theorem seqFetch_counts (a : Pa) (c : Scene) {lo : Nat} (hlo : lo ≤ 1) : (seqFetch a c).Counts c 0 1 lo 0 := by
  simp [seqFetch, SeqResult.Counts, calls, fetches, dataAccesses, hlo]

theorem seqCall_counts (s : State) (va : Word) (l : Level) (tab : Ppn) (c : Scene) :
    (seqCall s va l tab c).Counts c 1 0 0 0 := by
  unfold seqCall
  dsimp only
  split <;> simp [SeqResult.Counts, calls, fetches, dataAccesses]

/-- A round of the walk: one or two fetches, with a call between two. -/
theorem seqRound_counts (s : State) (va : Word) (l : Level) (tab : Ppn) (c : Scene) :
    (seqRound s va l tab c).Counts c 1 2 1 0 := by
  unfold seqRound
  split_ifs
  · refine (seqFetch_counts _ c le_rfl).andThen (nc' := 1) (nf' := 1) (lo' := 0) fun e c => ?_
    split_ifs
    · refine (seqCall_counts s va l tab c).andThen (nc' := 0) (nf' := 1) (lo' := 0) fun _ c => ?_
      refine (seqFetch_counts _ c zero_le_one).andThen (nc' := 0) (nf' := 0) (lo' := 0) fun e c => ?_
      split_ifs
      · exact counts_ends _ c 0 0 0 0
      · exact counts_goes e c 0 0
    · exact counts_goes e c 1 1
  · exact counts_ends _ c 1 2 1 0

theorem seqWalk_counts (s : State) (va : Word) (c : Scene) : (seqWalk s va c).Counts c 3 6 3 0 := by
  unfold seqWalk
  split_ifs
  · exact (seqRound_counts ..).andThen (nc' := 2) (nf' := 4) (lo' := 2) fun e c =>
      (seqRound_counts ..).andThen (nc' := 1) (nf' := 2) (lo' := 1) fun e c =>
        (seqRound_counts ..).andThen (nc' := 0) (nf' := 0) (lo' := 0) fun e c => counts_goes _ c 0 0
  · exact counts_ends _ c 3 6 3 0

/-- The permission round: at most one call and one more fetch. -/
theorem seqPermit_counts (s : State) (bit : Word → Bool) (va : Word) (tab : Ppn) (e : Word) (c : Scene) :
    (seqPermit s bit va tab e c).Counts c 1 1 0 0 := by
  unfold seqPermit
  split_ifs
  · exact counts_goes e c 1 1
  · refine (seqCall_counts ..).andThen (nc' := 0) (nf' := 1) (lo' := 0) fun _ c => ?_
    refine (seqFetch_counts _ c zero_le_one).andThen (nc' := 0) (nf' := 0) (lo' := 0) fun e c => ?_
    split_ifs
    · exact counts_goes e c 0 0
    · exact counts_ends _ c 0 0 0 0

theorem seqPiece_walk_counts (s : State) (va b : Word) (c : Scene) : (seqPiece s .walk va b c).Counts c 3 6 3 0 :=
  (seqWalk_counts s va c).andThen (nc' := 0) (nf' := 0) (lo' := 0) fun _ c => counts_goes _ c 0 0

/-- A read or a write: the walk, the permission round and one data access. -/
theorem seqPiece_counts (s : State) {op : AccessOp} (ho : op ≠ .walk) (va b : Word) (c : Scene) :
    (seqPiece s op va b c).Counts c 4 7 3 1 := by
  cases op with
  | walk => exact absurd rfl ho
  | read | write =>
    refine (seqWalk_counts s va c).andThen (nc' := 1) (nf' := 1) (lo' := 0) fun x c => ?_
    refine (seqPermit_counts ..).andThen (nc' := 0) (nf' := 0) (lo' := 0) fun e c => ?_
    split_ifs
    · simp [SeqResult.Counts, calls, fetches, dataAccesses]
    · exact counts_ends _ c 0 0 0 1

/-- The record of a concluded access has the counts of its piece, which is answered exactly where it goes on. -/
theorem Concludes.bounds {s t : State} {va : Word} {r : SeqResult Word} {nc nf lo nd : Nat} (h : Concludes va t r)
    (hr : r.Counts s.scene nc nf lo nd) :
    calls t.events ≤ nc ∧ fetches t.events ≤ nf
      ∧ (t.rsp.isSome = true → lo ≤ fetches t.events ∧ dataAccesses t.events = nd)
      ∧ (t.rsp = none → dataAccesses t.events = 0) := by
  cases r with
  | goes v c =>
    obtain ⟨rfl, -, hrsp⟩ := h
    obtain ⟨hcalls, hfetches, hlow, hdata⟩ := hr
    simp_all [State.scene, State.now, calls, fetches, dataAccesses]
  | ends x c =>
    obtain ⟨rfl, hrsp, -⟩ := h
    obtain ⟨hcalls, hfetches, hdata⟩ := hr
    simp_all [State.scene, State.now, calls, fetches, dataAccesses]

/-- Settles O27, by the counts of the sequential form, as which each access concludes. -/
theorem accessEventBounds : Obligations.AccessEventBounds := by
  intro s va b hp
  refine ⟨⟨_, accepting_accepted hp, ?_⟩, fun i hi => ?_⟩
  · obtain ⟨hcalls, hfetches, hsome, hnone⟩ :=
      (runAccess_concludes s .walk va b).bounds (seqPiece_walk_counts s va b s.scene)
    refine ⟨hcalls, hfetches, ?_, fun h => (hsome h).1⟩
    cases hrsp : (runAccess .walk va b (accepted s)).rsp with
    | none => exact hnone hrsp
    | some r => exact (hsome (by rw [hrsp]; rfl)).2
  · obtain ⟨op, ho, hexec⟩ : ∃ op, op ≠ .walk ∧ exec i s = .next (runAccess op va b (accepted s)) := by
      simp only [List.mem_cons, List.not_mem_nil, or_false] at hi
      rcases hi with rfl | rfl
      · exact ⟨.read, by decide, accepting_accepted hp⟩
      · exact ⟨.write, by decide, accepting_accepted hp⟩
    exact ⟨_, hexec, (runAccess_concludes s op va b).bounds (seqPiece_counts s ho va b s.scene)⟩

end Sys2Proof.Machine
end

section
/-! SUPPORT. An access under the null handler (spec/60_exceptions.md R222): it is answered exactly on a legal path
(43_translator.md R172), and it stores nothing unless it is an answered write (R165, R168). -/

namespace Sys2Proof.Machine

/-! Pieces of the sequential form that a condition decides. -/

/-- The ending is the fatal fault or an abort. -/
def Ending.Halts : Ending → Prop
  | .fatal _ _ => True
  | .aborts _ => True
  | .answers _ => False
  | .terminates _ => False
  | .hangs _ => False

/-- The piece goes on, with a value and a scene of `Q`, where `ok` holds, and else halts the machine. -/
def SeqResult.Decides {α : Type} (ok : Prop) (Q : α → Scene → Prop) : SeqResult α → Prop
  | .goes v c => ok ∧ Q v c
  | .ends x _ => ¬ok ∧ x.Halts

section
variable {α β : Type} {ok ok' : Prop} {Q : α → Scene → Prop} {R : β → Scene → Prop} {r : SeqResult α}

theorem SeqResult.Decides.congr (h : r.Decides ok Q) (hok : ok ↔ ok') : r.Decides ok' Q := by
  rwa [← hok]

theorem SeqResult.Decides.andThen {k : α → Scene → SeqResult β} (h : r.Decides ok Q)
    (hk : ∀ v c, Q v c → (k v c).Decides ok' R) : (r.andThen k).Decides (ok ∧ ok') R := by
  cases r with
  | ends x c => exact ⟨fun hboth => h.1 hboth.1, h.2⟩
  | goes v c => exact (hk v c h.2).congr (and_iff_right h.1).symm

/-- A test decides whether the piece goes on. -/
theorem decides_ite {b : Bool} {v : α} {c d : Scene} {x : Ending} (hQ : b = true → Q v c) (hx : x.Halts) :
    (if b then .goes v c else .ends x d : SeqResult α).Decides (b = true) Q := by
  cases b with
  | true => exact ⟨rfl, hQ rfl⟩
  | false => exact ⟨Bool.false_ne_true, hx⟩

end

/-! The sequential form under the null handler. -/

/-- The path is legal where the walk finds a table of the pool and no fault at each level (43_translator.md R172). -/
theorem mapped_iff {s : State} {va : Word} : Mapped s va ↔
    s.rootSet = true ∧ (inPool s.lastPpn s.root = true ∧ isFault (entry2 s va) .l2 = false)
      ∧ (inPool s.lastPpn (getPpn (entry2 s va)) = true ∧ isFault (entry1 s va) .l1 = false)
      ∧ (inPool s.lastPpn (getPpn (entry1 s va)) = true ∧ isFault (entry0 s va) .l0 = false) := by
  refine ⟨fun h => ⟨h.rootSet, ⟨h.rootInside, h.noFault2⟩, ⟨h.inside1, h.noFault1⟩, h.inside0, h.noFault0⟩, ?_⟩
  rintro ⟨hset, ⟨hin2, hf2⟩, ⟨hin1, hf1⟩, hin0, hf0⟩
  exact ((((Reaches.root hset).down hin2 hf2 rfl).down hin1 hf1 rfl).mapped hin0 hf0).1

theorem seqFetch_pteAt {s : State} (va : Word) (l : Level) (tab : Ppn) {c : Scene} (hc : c.pool = s.pool) :
    ∃ es, seqFetch (entryAt tab (indexAt va l)) c = .goes (pteAt s.pool.mem tab va l) { c with events := es } :=
  ⟨_, by rw [seqFetch, hc, pteAt]⟩

section
variable {s : State} (hn : s.handler = .null)
include hn

/-- The null handler completes at once and changes nothing. -/
theorem seqCall_null (va : Word) (l : Level) (tab : Ppn) (c : Scene) :
    ∃ es, seqCall s va l tab c = .goes () { c with events := es } :=
  ⟨c.events ++ [.call ⟨va, l, frameWord tab⟩], by simp [seqCall, handlerTurn, turnsAfter, hn]⟩

/-- A round goes on in a table of the pool whose entry does not fault: a call leaves the entry as it is. -/
theorem seqRound_null (va : Word) (l : Level) (tab : Ppn) {c : Scene} (hc : c.pool = s.pool) :
    (seqRound s va l tab c).Decides (inPool s.lastPpn tab = true ∧ isFault (pteAt s.pool.mem tab va l) l = false)
      (fun e d => e = pteAt s.pool.mem tab va l ∧ d.pool = s.pool) := by
  obtain ⟨es, hfetch⟩ := seqFetch_pteAt va l tab hc
  rw [seqRound, hfetch, SeqResult.andThen]
  cases hin : inPool s.lastPpn tab with
  | false => exact ⟨by simp, trivial⟩
  | true =>
    cases hf : isFault (pteAt s.pool.mem tab va l) l with
    | false => exact ⟨⟨rfl, rfl⟩, rfl, hc⟩
    | true =>
      obtain ⟨es', hcall⟩ := seqCall_null hn va l tab { c with events := es }
      obtain ⟨es'', hfetch'⟩ := seqFetch_pteAt va l tab (c := { c with events := es' }) hc
      simp only [if_true, hcall, hfetch', SeqResult.andThen, hf]
      exact ⟨by simp, trivial⟩

/-- The walk goes on exactly on a legal path, with the leaf table and the leaf entry. -/
theorem seqWalk_null (va : Word) {c : Scene} (hc : c.pool = s.pool) :
    (seqWalk s va c).Decides (Mapped s va)
      (fun x d => x = (getPpn (entry1 s va), entry0 s va) ∧ d.pool = s.pool) := by
  rw [seqWalk]
  cases hset : s.rootSet with
  | false => exact ⟨fun h => by simp [h.rootSet] at hset, trivial⟩
  | true =>
    refine SeqResult.Decides.congr ?_ (mapped_iff.trans (and_iff_right hset)).symm
    refine (seqRound_null hn va .l2 s.root hc).andThen ?_
    rintro _ c ⟨rfl, hc⟩
    refine (seqRound_null hn va .l1 _ hc).andThen ?_
    rintro _ c ⟨rfl, hc⟩
    refine ((seqRound_null hn va .l0 _ hc).andThen (ok' := True) ?_).congr (and_iff_left trivial)
    rintro _ c ⟨rfl, hc⟩
    exact ⟨trivial, rfl, hc⟩

/-- The permission round goes on exactly where the leaf has the bit: a call leaves the leaf as it is. -/
theorem seqPermit_null (bit : Word → Bool) (va : Word) (tab : Ppn) {c : Scene} (hc : c.pool = s.pool) :
    (seqPermit s bit va tab (pteAt s.pool.mem tab va .l0) c).Decides (bit (pteAt s.pool.mem tab va .l0) = true)
      (fun e _ => e = pteAt s.pool.mem tab va .l0) := by
  rw [seqPermit]
  cases hb : bit (pteAt s.pool.mem tab va .l0) with
  | true => exact ⟨rfl, rfl⟩
  | false =>
    obtain ⟨es, hcall⟩ := seqCall_null hn va .l0 tab c
    obtain ⟨es', hfetch⟩ := seqFetch_pteAt va .l0 tab (c := { c with events := es }) hc
    simp only [Bool.false_eq_true, if_false, hcall, hfetch, SeqResult.andThen, hb]
    exact ⟨by simp, trivial⟩

/-- `MMU.WALK` is answered exactly on a legal path. -/
theorem seqPiece_walk_null (va b : Word) : (seqPiece s .walk va b s.scene).Decides (Mapped s va) fun _ _ => True := by
  refine ((seqWalk_null hn va rfl).andThen (ok' := True) fun _ _ _ => ?_).congr (and_iff_left trivial)
  exact ⟨trivial, trivial⟩

/-- A read or a write is answered exactly where moreover the leaf has the needed bit and names a frame. -/
theorem seqTransfer_null (bit : Word → Bool) (va : Word) {transfer : Word → Scene → SeqResult Word}
    (htransfer : ∀ e c, (transfer e c).Decides (inPool s.lastPpn (getPpn e) = true) fun _ _ => True) :
    ((seqWalk s va s.scene).andThen fun x c => (seqPermit s bit va x.1 x.2 c).andThen transfer).Decides
      (Mapped s va ∧ bit (entry0 s va) = true ∧ inPool s.lastPpn (getPpn (entry0 s va)) = true) fun _ _ => True := by
  refine (seqWalk_null hn va rfl).andThen ?_
  rintro _ c ⟨rfl, hc⟩
  refine (seqPermit_null hn bit va _ hc).andThen ?_
  rintro _ c rfl
  exact htransfer _ c

theorem seqPiece_read_null (va b : Word) : (seqPiece s .read va b s.scene).Decides
    (Mapped s va ∧ getRead (entry0 s va) = true ∧ inPool s.lastPpn (getPpn (entry0 s va)) = true) fun _ _ => True :=
  seqTransfer_null hn getRead va fun _ _ => decides_ite (fun _ => trivial) trivial

theorem seqPiece_write_null (va b : Word) : (seqPiece s .write va b s.scene).Decides
    (Mapped s va ∧ getWrite (entry0 s va) = true ∧ inPool s.lastPpn (getPpn (entry0 s va)) = true) fun _ _ => True :=
  seqTransfer_null hn getWrite va fun _ _ => decides_ite (fun _ => trivial) trivial

end

/-- An access that concludes as a decided piece is answered where the piece goes on, and else has halted. -/
theorem Concludes.answered_or_halted {va : Word} {t : State} {r : SeqResult Word} {ok : Prop} {Q : Word → Scene → Prop}
    (h : Concludes va t r) (hr : r.Decides ok Q) :
    (ok → t.phase = .idle ∧ t.rsp.isSome = true)
      ∧ (¬ok → t.phase = .halt ∧ t.rsp = none ∧ (t.cause = .badAddress ∨ t.cause = .abort)) := by
  cases r with
  | goes v c =>
    obtain ⟨-, hidle, hrsp⟩ := h
    exact ⟨fun _ => ⟨hidle, by rw [hrsp]; rfl⟩, fun hno => absurd hr.1 hno⟩
  | ends x c =>
    obtain ⟨-, hsilent, hshows⟩ := h
    refine ⟨fun hok => absurd hok hr.1, fun _ => ?_⟩
    cases x with
    | fatal l e =>
      obtain ⟨hhalt, -, -, hcause, -⟩ := hshows
      exact ⟨hhalt, hsilent, .inl hcause⟩
    | aborts a =>
      obtain ⟨hhalt, -, -, hcause, -⟩ := hshows
      exact ⟨hhalt, hsilent, .inr hcause⟩
    | answers | terminates | hangs => exact hr.2.elim

/-- Settles O22: under the null handler the conditions decide the pieces as which the three accesses conclude. -/
theorem nullHandlerAccessCompletesIffMapped : Obligations.NullHandlerAccessCompletesIffMapped := by
  intro va b s hp hn
  have conclude (op : AccessOp) := runAccess_concludes s op va b
  exact ⟨⟨_, accepting_accepted hp, (conclude .walk).answered_or_halted (seqPiece_walk_null hn va b)⟩,
    ⟨_, accepting_accepted hp, (conclude .read).answered_or_halted (seqPiece_read_null hn va b)⟩,
    ⟨_, accepting_accepted hp, (conclude .write).answered_or_halted (seqPiece_write_null hn va b)⟩⟩

/-! What is stored. -/

/-- An access that has concluded in `IDLE` has been answered. -/
theorem Concludes.answered_of_idle {va : Word} {t : State} {r : SeqResult Word} (h : Concludes va t r)
    (hidle : t.phase = .idle) : t.rsp ≠ none := by
  cases r with
  | goes v c => simp [h.2.2]
  | ends x c =>
    obtain ⟨-, hsilent, hshows⟩ := h
    cases x with
    | answers r => simp [hshows.2]
    | fatal | aborts | terminates => cases hidle.symm.trans hshows.1
    | hangs f => rcases hshows.1 with hwait | hwait <;> cases hidle.symm.trans hwait

theorem withOperand_pool {α : Type} {x : Except AbortReason α} {k : α → State → State} {s : State}
    (h : ∀ v, (k v s).pool = s.pool) : (withOperand x k s).pool = s.pool := by
  cases x with
  | ok v => exact h v
  | error r => rfl

/-- Every instruction but the three accesses leaves the pool. -/
theorem exec_pool_or_access (i : Instr) {s : State} (hp : s.phase = .idle) :
    (∃ t, exec i s = .next t ∧ t.pool = s.pool)
      ∨ ∃ va b, i ∈ [Instr.mmuWalk va b, Instr.mmuRead va b, Instr.mmuWrite va b] := by
  cases i with
  | pteVget | pteVset | pteVclr | pteRget | pteRset | pteRclr | pteWget | pteWset | pteWclr | pteDget | pteDset
  | pteDclr | ptePpnget => exact .inl ⟨_, accepting_accepted hp, rfl⟩
  | ptePpnset | navIndex | navF2p | navP2f | mmuSetroot =>
    exact .inl ⟨_, accepting_accepted hp, withOperand_pool fun _ => rfl⟩
  | navEntryat => exact .inl ⟨_, accepting_accepted hp, withOperand_pool fun _ => withOperand_pool fun _ => rfl⟩
  | mmuWalk va b | mmuRead va b | mmuWrite va b => exact .inr ⟨va, b, by simp⟩
  | mmuGetroot =>
    refine .inl ⟨_, accepting_accepted hp, ?_⟩
    unfold getRoot
    split_ifs <;> rfl

/-- Settles O32: only an access can change the pool, and under the null handler it does so only as an answered write,
in memory. -/
theorem haltedAccessStoresNothing : Obligations.HaltedAccessStoresNothing := by
  intro i s hp hn
  rcases exec_pool_or_access i hp with ⟨t, ht, hpool⟩ | ⟨va, b, hi⟩
  · exact ⟨t, ht, by rw [hpool], by rw [hpool], by rw [hpool], fun _ => by rw [hpool], fun _ => by rw [hpool]⟩
  · obtain ⟨op, ht, hwrite⟩ := exec_access hp hi
    refine ⟨_, ht, ?_⟩
    rcases runAccess_pool_null hn op va b with hpool | hstored
    · exact ⟨by rw [hpool], by rw [hpool], by rw [hpool], fun _ => by rw [hpool], fun _ => by rw [hpool]⟩
    · refine ⟨by rw [hstored.pool], by rw [hstored.pool], by rw [hstored.pool], fun hne => ?_, fun hsilent => ?_⟩
      · exact absurd (hwrite hstored.op) (hne va b)
      · exact absurd hsilent ((runAccess_concludes s op va b).answered_of_idle hstored.phase)

end Sys2Proof.Machine
end

section
/-! SUPPORT. The forks (spec/44_fork_cow_env.md R190, R191): the step of a host that forks, what the eager copy leaves
alone, and the one reason for which a fork does not end. -/

namespace Sys2Proof.Machine

/-! The host's step. -/

/-- In `IDLE` the step is the host's next action. -/
theorem step_hostMove {s : State} {a : HostAction} {q : List HostAction} (hp : s.phase = .idle)
    (hq : s.hostQueue = a :: q) : step s = hostMove a { s with hostQueue := q } := by
  have turn : a ≠ .reset → step s = walkerOrHost s := fun ha => by
    cases a <;> simp [step, machineTurn, hq] at ha ⊢
  by_cases ha : a = .reset
  · subst ha; simp only [step, machineTurn, hq]; rfl
  · rw [turn ha]; simp only [walkerOrHost, hp, hq]

/-- Both forks are the same procedure of the host but for the leaf rule. -/
theorem step_fork {s : State} {q : List HostAction} (hp : s.phase = .idle)
    (hq : s.hostQueue = .forkCopy :: q ∨ s.hostQueue = .forkCopyOnWrite :: q) :
    ∃ leaf, step s = hostProcedure (forkTree s.lastPpn leaf s.rootSet s.root s.pool)
      (fun f => some (frameWord f).toNat) { s with hostQueue := q } := by
  rcases hq with hq | hq
  · exact ⟨copyLeaf s.lastPpn, step_hostMove hp hq⟩
  · exact ⟨shareLeaf s.lastPpn, step_hostMove hp hq⟩

theorem forkTree_without_room {last : Ppn} {p : Pool} (h : maxPages last < 2 * p.live)
    (leaf : Pa → Word → Pool → PoolResult Word) (rootSet : Bool) (root : Ppn) :
    forkTree last leaf rootSet root p = .stop (.terminate .outOfMemory) p :=
  if_neg h.not_ge

theorem forkTree_with_root {last root : Ppn} {p : Pool} (h : 2 * p.live ≤ maxPages last)
    (hr : inPool last root = true) (leaf : Pa → Word → Pool → PoolResult Word) :
    forkTree last leaf true root p = forkTable last leaf 2 [] root p := by
  rw [forkTree, if_pos h, if_pos rfl, if_pos hr]

/-- Settles O50: the precondition is tested before anything else. -/
theorem forkPrecondition : Obligations.ForkPrecondition := by
  intro s q hp hroom hq
  obtain ⟨leaf, hstep⟩ := step_fork hp hq
  rw [hstep, forkTree_without_room hroom]
  rfl

/-! The entries of a table, the frame of its duplicate, and the counts. -/

/-- The index the loops compute from the number of an entry. -/
theorem ofNat_index {i : Index} {k : Nat} (h : i.toNat = k) : BitVec.ofNat 9 k = i := by
  rw [← h, BitVec.ofNat_toNat, BitVec.setWidth_eq]

/-- Two places in tables that differ share no byte. -/
theorem memRead8_write8_entry_ne (m : Memory) {src dst : Ppn} {i j : Index} (h : src ≠ dst ∨ i ≠ j) (e : Word) :
    memRead8 (memWrite8 m (entryAt dst j).toNat e) (entryAt src i).toNat = memRead8 m (entryAt src i).toNat := by
  have hi := i.isLt
  have hj := j.isLt
  have : src.toNat ≠ dst.toNat ∨ i.toNat ≠ j.toNat :=
    h.imp (fun h e => h (BitVec.eq_of_toNat_eq e)) (fun h e => h (BitVec.eq_of_toNat_eq e))
  exact memRead8_write8_ne _ _ (by rw [entryAt_toNat, entryAt_toNat]; omega)

/-- An entry of a table lies inside its frame. -/
theorem memRead1_write8_entry_ne (m : Memory) {f : Ppn} {a : Nat} (h : a / 4096 ≠ f.toNat) (i : Index) (e : Word) :
    memRead1 (memWrite8 m (entryAt f i).toNat e) a = memRead1 m a := by
  have := i.isLt
  exact memRead1_write8_ne _ _ (by rw [entryAt_toNat]; omega)

/-- The pool after an `alloc()` that returned a frame. -/
theorem Pool.Ok.of_alloc {last f : Ppn} {p q : Pool} (h : p.Ok last) (halloc : allocFrame last p = .ok f q) :
    q.Ok last ∧ inPool last f = true := by
  have := allocFrame_ok h
  rwa [halloc] at this

/-- A count that is replaced by a function of itself. -/
theorem refcntOf_update {last : Ppn} {p : Pool} (h : p.Ok last) (u : Nat → Nat) (f g : Ppn) :
    refcntOf (setRefcnt p f (u (refcntOf p f))) g = if g = f then u (refcntOf p g) else refcntOf p g := by
  rw [refcntOf_setRefcnt h]
  split_ifs with hg
  · rw [hg]
  · rfl

/-! The eager copy. -/

/-- What a fork that started in `p` leaves alone: the bytes of the frames that were allocated, their allocation, and
the counts. -/
structure Pool.Keeps (last : Ppn) (p q : Pool) : Prop where
  ok      : q.Ok last
  bytes   : ∀ a, a / 4096 ∈ p.allocSet → memRead1 q.mem a = memRead1 p.mem a
  alloc   : ∀ k ∈ p.allocSet, k ∈ q.allocSet
  refcnt  : q.refcnt = p.refcnt

/-- A frame of the pool that was not allocated in `p`. -/
def Pool.Fresh (last : Ppn) (p : Pool) (f : Ppn) : Prop := inPool last f = true ∧ f.toNat ∉ p.allocSet

section
variable {last : Ppn} {p q : Pool}

theorem Pool.Keeps.refl (h : p.Ok last) : p.Keeps last p :=
  ⟨h, fun _ _ => rfl, fun _ h => h, rfl⟩

theorem Pool.Keeps.allocFrame_sat (h : p.Keeps last q) :
    (allocFrame last q).Sat (p.Keeps last) (p.Fresh last) :=
  Machine.allocFrame_sat h fun _ hf hn =>
    ⟨⟨h.ok.alloc hf _, h.bytes, fun k hk => mem_setInsert.2 (.inr (h.alloc k hk)), h.refcnt⟩,
      inPool_iff.2 hf, fun hk => hn (h.alloc _ hk)⟩

/-- A write of an entry of a fresh frame. -/
theorem Pool.Keeps.write_fresh (h : p.Keeps last q) {f : Ppn} (hf : p.Fresh last f) (i : Index) (e : Word) :
    p.Keeps last { q with mem := memWrite8 q.mem (entryAt f i).toNat e } where
  ok := h.ok.write8 (entryAt_populated hf.1 i) e
  bytes a ha := by
    have hne : a / 4096 ≠ f.toNat := fun hfa => hf.2 (hfa ▸ ha)
    rw [memRead1_write8_entry_ne _ hne, h.bytes a ha]
  alloc := h.alloc
  refcnt := h.refcnt

/-- A copy into a fresh frame. -/
theorem Pool.Keeps.copy_fresh (h : p.Keeps last q) {f : Ppn} (hf : p.Fresh last f) (src : Ppn) :
    p.Keeps last { q with mem := copyFrame q.mem f src } where
  ok := h.ok.copy hf.1 src
  bytes a ha := by
    have hne : inFrame f a ≠ true := fun hfa => hf.2 (inFrame_iff.1 hfa ▸ ha)
    rw [memRead1_copyFrame h.ok.memWf, if_neg hne, h.bytes a ha]
  alloc := h.alloc
  refcnt := h.refcnt

theorem Pool.Keeps.copyLeaf_sat (h : p.Keeps last q) (a : Pa) (e : Word) :
    (copyLeaf last a e q).Sat (p.Keeps last) (fun _ => True) :=
  h.allocFrame_sat.andThen fun _ _ hr hf => (frameOf_sat hr e).andThen fun src _ hr _ => ⟨hr.copy_fresh hf src, trivial⟩

/-- `fork_copy()` writes into frames it has allocated itself and returns one of them (R191). -/
theorem forkCopy_keeps (h : p.Ok last) (rootSet : Bool) (root : Ppn) :
    (forkCopy last rootSet root p).Sat (p.Keeps last) (p.Fresh last) :=
  forkTree_sat (fun _ hq => hq.allocFrame_sat) (fun _ _ i e hq hf => hq.write_fresh hf i e)
    (fun _ _ e _ hq _ => hq.copyLeaf_sat _ e) (.refl h) rootSet root

end

/-- Settles O51: the copy goes into fresh frames alone. -/
theorem eagerForkLeavesTheOriginalAlone : Obligations.EagerForkLeavesTheOriginalAlone := by
  intro last root rootSet p q f hok h
  have hsat := forkCopy_keeps hok rootSet root
  rw [h] at hsat
  obtain ⟨hq, -, hf⟩ := hsat
  exact ⟨hf, hq.bytes, hq.alloc, hq.refcnt⟩

/-! A fork that does not end. -/

/-- A fault of the procedure, if it has one, is the fork's own. -/
def PoolResult.EndsUnlessCycle {α : Type} : PoolResult α → Prop
  | .ok _ _ => True
  | .stop _ _ => True
  | .fault f => f = .forkCycle

section
variable {α β : Type} {last : Ppn}

theorem PoolResult.EndsUnlessCycle.andThen {r : PoolResult α} {k : α → Pool → PoolResult β} (hr : r.EndsUnlessCycle)
    (hk : ∀ v p, (k v p).EndsUnlessCycle) : (r.andThen k).EndsUnlessCycle := by
  cases r with
  | ok v p => exact hk v p
  | stop w p => trivial
  | fault f => exact hr

theorem allocFrame_endsUnlessCycle (last : Ppn) (p : Pool) : (allocFrame last p).EndsUnlessCycle := by
  rcases allocFrame_cases last p with ⟨f, e, -⟩ | ⟨e, -⟩
  · rw [e]; trivial
  · rw [e]; trivial

theorem frameOf_endsUnlessCycle (last : Ppn) (e : Word) (p : Pool) : (frameOf last e p).EndsUnlessCycle := by
  unfold frameOf
  split_ifs <;> trivial

theorem copyLeaf_endsUnlessCycle (last : Ppn) (a : Pa) (e : Word) (p : Pool) :
    (copyLeaf last a e p).EndsUnlessCycle :=
  (allocFrame_endsUnlessCycle last p).andThen fun _ q => (frameOf_endsUnlessCycle last e q).andThen fun _ _ => trivial

theorem shareLeaf_endsUnlessCycle (last : Ppn) (a : Pa) (e : Word) (p : Pool) :
    (shareLeaf last a e p).EndsUnlessCycle := by
  unfold shareLeaf
  split_ifs
  · exact (frameOf_endsUnlessCycle last _ _).andThen fun _ _ => trivial
  · trivial

theorem forkEntries_endsUnlessCycle {visit : Pa → Word → Pool → PoolResult Word} {src dst : Ppn}
    (hv : ∀ a e p, (visit a e p).EndsUnlessCycle) (n : Nat) (p : Pool) :
    (forkEntries visit src dst n p).EndsUnlessCycle := by
  induction n generalizing p with
  | zero => trivial
  | succ n ih =>
    simp only [forkEntries]
    refine PoolResult.EndsUnlessCycle.andThen ?_ fun _ _ => ih _
    split_ifs
    · exact hv _ _ p
    · trivial

variable {leaf : Pa → Word → Pool → PoolResult Word}

theorem forkTable_endsUnlessCycle (hleaf : ∀ a e p, (leaf a e p).EndsUnlessCycle) (l : Nat) (path : List Ppn)
    (src : Ppn) (p : Pool) : (forkTable last leaf l path src p).EndsUnlessCycle := by
  induction l generalizing path src p with
  | zero =>
    exact (allocFrame_endsUnlessCycle last p).andThen fun _ q =>
      (forkEntries_endsUnlessCycle hleaf 512 q).andThen fun _ _ => trivial
  | succ l ih =>
    refine (allocFrame_endsUnlessCycle last p).andThen fun _ q =>
      (forkEntries_endsUnlessCycle (fun _ e r => ?_) 512 q).andThen fun _ _ => trivial
    refine (frameOf_endsUnlessCycle last e r).andThen fun f r => ?_
    split_ifs
    · rfl
    · exact (ih (src :: path) f r).andThen fun _ _ => trivial

theorem forkTree_endsUnlessCycle (hleaf : ∀ a e p, (leaf a e p).EndsUnlessCycle) (rootSet : Bool) (root : Ppn)
    (p : Pool) : (forkTree last leaf rootSet root p).EndsUnlessCycle := by
  unfold forkTree
  split_ifs
  · exact forkTable_endsUnlessCycle hleaf 2 [] root p
  · trivial
  · trivial
  · trivial

end

/-- The loop over a table passes the invalid entries before `i`, which lie outside the frame it writes, and comes to
`i`. -/
theorem forkEntries_fault_at_first_valid {visit : Pa → Word → Pool → PoolResult Word} {src dst : Ppn} (hne : src ≠ dst)
    {i : Index} {e : Word} {f : Fault} (hvalid : getValid e = true) (hvisit : ∀ p, visit (entryAt src i) e p = .fault f)
    {n : Nat} {p : Pool} (hn : n ≤ 512) (hi : 512 - n ≤ i.toNat)
    (hfirst : ∀ j < i, getValid (memRead8 p.mem (entryAt src j).toNat) = false)
    (he : memRead8 p.mem (entryAt src i).toNat = e) : forkEntries visit src dst n p = .fault f := by
  induction n generalizing p with
  | zero => have := i.isLt; omega
  | succ n ih =>
    simp only [forkEntries]
    by_cases hk : 511 - n = i.toNat
    · rw [ofNat_index hk.symm, he, if_pos hvalid, hvisit, PoolResult.fault_andThen]
    · have hlt : BitVec.ofNat 9 (511 - n) < i := by
        rw [BitVec.lt_def, BitVec.toNat_ofNat]; omega
      rw [hfirst _ hlt, if_neg Bool.false_ne_true, PoolResult.ok_andThen]
      refine ih (by omega) (by omega) (fun j hj => ?_) ?_
      · rw [memRead8_write8_entry_ne _ (.inl hne), hfirst j hj]
      · rw [memRead8_write8_entry_ne _ (.inl hne), he]

/-- A table whose first valid entry leads to itself or to a table above it (R191). -/
theorem forkTable_cycle {last src dst : Ppn} {leaf : Pa → Word → Pool → PoolResult Word} {l : Nat} {path : List Ppn}
    {p p' : Pool} {i : Index} {e : Word} (hsrc : src.toNat ∈ p.allocSet) (halloc : allocFrame last p = .ok dst p')
    (hfirst : ∀ j < i, getValid (memRead8 p.mem (entryAt src j).toNat) = false)
    (he : memRead8 p.mem (entryAt src i).toNat = e) (hvalid : getValid e = true) (hin : inPool last (getPpn e) = true)
    (hpath : getPpn e ∈ src :: path) : forkTable last leaf (l + 1) path src p = .fault .forkCycle := by
  obtain ⟨hp', hfresh⟩ := allocFrame_eq_ok halloc
  have hne : src ≠ dst := fun h => hfresh (h ▸ hsrc)
  have hmem : p'.mem = p.mem := by rw [hp']
  rw [← hmem] at hfirst he
  simp only [forkTable]
  rw [halloc, PoolResult.ok_andThen,
    forkEntries_fault_at_first_valid hne hvalid (fun p => ?_) le_rfl (Nat.zero_le _) hfirst he, PoolResult.fault_andThen]
  rw [frameOf, if_pos hin, PoolResult.ok_andThen, if_pos (List.contains_iff_mem.2 hpath)]

/-- With half of the pool free there is a frame for the duplicate of the root. -/
theorem allocFrame_of_half_free {last : Ppn} {p : Pool} (hc : p.Counted) {k : Nat} (hk : k ∈ p.allocSet)
    (hroom : 2 * p.live ≤ maxPages last) : ∃ f q, allocFrame last p = .ok f q := by
  have hpos : 0 < p.live := hc ▸ List.length_pos_of_mem hk
  rcases allocFrame_cases last p with ⟨f, e, -⟩ | ⟨-, hfull | hall⟩
  · exact ⟨f, _, e⟩
  · omega
  · have := hc.le_live hall; omega

/-- Settles O60: the loop comes to the cycle before it follows any other entry, and nothing else in a fork faults. -/
theorem forkIntoACycleDoesNotEnd : Obligations.ForkIntoACycleDoesNotEnd := by
  refine ⟨?_, ?_, ?_⟩
  · intro last src dst leaf l path p p' i e _ hsrc halloc hfirst he hvalid hin hpath
    exact forkTable_cycle hsrc halloc hfirst he.symm hvalid (inPool_iff.2 hin) hpath
  · intro s q i e hp hq hok hc hroom hset hroot hfirst he hvalid hppn
    have hin : inPool s.lastPpn s.root = true := inPool_iff.2 (hok.allocInside _ hroot)
    obtain ⟨dst, p', halloc⟩ := allocFrame_of_half_free hc hroot hroom
    obtain ⟨leaf, hstep⟩ := step_fork hp hq
    rw [hstep, hset, forkTree_with_root hroom hin,
      forkTable_cycle hroot halloc hfirst he.symm hvalid (hppn ▸ hin) (hppn ▸ List.mem_cons_self)]
    rfl
  · rintro last root rootSet p f (h | h)
    · have := forkTree_endsUnlessCycle (last := last) (copyLeaf_endsUnlessCycle last) rootSet root p
      rwa [← forkCopy, h] at this
    · have := forkTree_endsUnlessCycle (last := last) (shareLeaf_endsUnlessCycle last) rootSet root p
      rwa [← forkCopyOnWrite, h] at this

end Sys2Proof.Machine
end

section
/-! SUPPORT. The lazy fork of a leaf table (spec/44_fork_cow_env.md R192): what the leaf rule does to one entry, what the
loop has done to both tables when it has passed some of the entries, and how it ends. -/

namespace Sys2Proof.Machine

/-! The leaf rule. -/

/-- A leaf without its write bit, marked (R192). -/
def protectedLeaf (e : Word) : Word := setDeferred (clearWrite e)

theorem protectedLeaf_eq (e : Word) : protectedLeaf e = (e &&& 0xFFFFFFFFFFFFFFFB) ||| 0x100 := rfl

theorem getPpn_protectedLeaf (e : Word) : getPpn (protectedLeaf e) = getPpn e :=
  (PteFlag.deferred.getPpn_set _).trans (PteFlag.write.getPpn_clear e)

/-- The pool with the entry at `a` protected and its frame counted twice more. -/
def Pool.shared (p : Pool) (a : Nat) (e : Word) : Pool :=
  setRefcnt { p with mem := memWrite8 p.mem a (protectedLeaf e) } (getPpn e) (refcntOf p (getPpn e) + 2)

theorem Pool.refcntOf_shared {last : Ppn} {p : Pool} (h : p.Ok last) (a : Nat) (e : Word) (f : Ppn) :
    refcntOf (p.shared a e) f = if f = getPpn e then refcntOf p f + 2 else refcntOf p f :=
  refcntOf_update h (· + 2) (getPpn e) f

theorem shareLeaf_writable {last : Ppn} {e : Word} (hw : getWrite e = true) (hi : inPool last (getPpn e) = true) (a : Pa)
    (p : Pool) : shareLeaf last a e p = .ok (protectedLeaf e) (p.shared a.toNat e) := by
  have hppn : getPpn (setDeferred (clearWrite e)) = getPpn e := getPpn_protectedLeaf e
  rw [shareLeaf, if_pos hw, frameOf, hppn, if_pos hi]
  rfl

theorem shareLeaf_out_of_range {last : Ppn} {e : Word} (hw : getWrite e = true) (hi : inPool last (getPpn e) = false)
    (a : Pa) (p : Pool) : shareLeaf last a e p =
      .stop (.abort .frameRange) { p with mem := memWrite8 p.mem a.toNat (protectedLeaf e) } := by
  have hppn : getPpn (setDeferred (clearWrite e)) = getPpn e := getPpn_protectedLeaf e
  rw [shareLeaf, if_pos hw, frameOf, hppn, hi]
  rfl

theorem shareLeaf_readonly {e : Word} (hw : getWrite e = false) (last : Ppn) (a : Pa) (p : Pool) :
    shareLeaf last a e p = .ok e p := by
  rw [shareLeaf, hw]
  rfl

/-! The table. -/

/-- Whether the lazy fork shares an entry: a valid writable leaf. -/
def isShared (e : Word) : Bool := getValid e && getWrite e

/-- What both tables hold after the fork of a table that held `e`. -/
def sharedEntry (e : Word) : Word := if isShared e then protectedLeaf e else e

/-- The pool after the leaf rule has seen the entry `e` of `src` at `i`, if it did not stop. -/
def Pool.visited (p : Pool) (src : Ppn) (i : Index) (e : Word) : Pool :=
  if isShared e then p.shared (entryAt src i).toNat e else p

section
variable {last src : Ppn} {p : Pool} {i : Index} {e : Word}

theorem Pool.visited_shared (h : isShared e = true) : p.visited src i e = p.shared (entryAt src i).toNat e := by
  rw [visited, if_pos h]

theorem Pool.visited_unshared (h : isShared e = false) : p.visited src i e = p := by
  rw [visited, h]; rfl

theorem Pool.Ok.visited (h : p.Ok last) (hs : inPool last src = true)
    (he : isShared e = true → inPool last (getPpn e) = true) : (p.visited src i e).Ok last := by
  cases hsh : isShared e
  · rwa [Pool.visited_unshared hsh]
  · rw [Pool.visited_shared hsh]
    exact (h.write8 (entryAt_populated hs i) _).refcount (inPool_iff.1 (he hsh)) _

theorem Pool.visited_source (h : p.Ok last) (he : memRead8 p.mem (entryAt src i).toNat = e) :
    memRead8 (p.visited src i e).mem (entryAt src i).toNat = sharedEntry e := by
  cases hsh : isShared e
  · rw [visited_unshared hsh, sharedEntry, hsh, he]; rfl
  · rw [visited_shared hsh, sharedEntry, if_pos hsh]
    exact memRead8_write8 h.memWf _ _

theorem Pool.visited_other {f : Ppn} {j : Index} (h : f ≠ src ∨ j ≠ i) :
    memRead8 (p.visited src i e).mem (entryAt f j).toNat = memRead8 p.mem (entryAt f j).toNat := by
  cases hsh : isShared e
  · rw [visited_unshared hsh]
  · rw [visited_shared hsh]
    exact memRead8_write8_entry_ne _ h _

theorem Pool.visited_outside {a : Nat} (h : a / 4096 ≠ src.toNat) :
    memRead1 (p.visited src i e).mem a = memRead1 p.mem a := by
  cases hsh : isShared e
  · rw [visited_unshared hsh]
  · rw [visited_shared hsh]
    exact memRead1_write8_entry_ne _ h i _

theorem Pool.refcntOf_visited (h : p.Ok last) (f : Ppn) : refcntOf (p.visited src i e) f =
    refcntOf p f + 2 * if isShared e && decide (getPpn e = f) then 1 else 0 := by
  cases hsh : isShared e
  · rw [visited_unshared hsh]; rfl
  · rw [visited_shared hsh, refcntOf_shared h]
    by_cases hf : f = getPpn e
    · simp [hf]
    · simp [hf, Ne.symm hf]

theorem Pool.visited_allocSet : (p.visited src i e).allocSet = p.allocSet := by
  unfold visited; split_ifs <;> rfl

theorem Pool.visited_live : (p.visited src i e).live = p.live := by
  unfold visited; split_ifs <;> rfl

/-- What the loop makes of an entry whose frame, if it is to be shared, can be counted. -/
theorem shareLeaf_visit (he : isShared e = true → inPool last (getPpn e) = true) :
    (if getValid e then shareLeaf last (entryAt src i) e p else .ok e p) =
      .ok (sharedEntry e) (p.visited src i e) := by
  cases hv : getValid e
  · have hsh : isShared e = false := by rw [isShared, hv]; rfl
    rw [Pool.visited_unshared hsh, sharedEntry, hsh]; rfl
  · cases hw : getWrite e
    · have hsh : isShared e = false := by rw [isShared, hv, hw]; rfl
      rw [Pool.visited_unshared hsh, sharedEntry, hsh, if_pos rfl, shareLeaf_readonly hw]; rfl
    · have hsh : isShared e = true := by rw [isShared, hv, hw]; rfl
      rw [Pool.visited_shared hsh, sharedEntry, if_pos hsh, if_pos rfl, shareLeaf_writable hw (he hsh)]

/-- At an entry it cannot share the loop stops. -/
theorem shareLeaf_visit_out_of_range (hsh : isShared e = true) (hi : inPool last (getPpn e) = false) :
    (if getValid e then shareLeaf last (entryAt src i) e p else .ok e p) =
      .stop (.abort .frameRange) { p with mem := memWrite8 p.mem (entryAt src i).toNat (protectedLeaf e) } := by
  obtain ⟨hv, hw⟩ := Bool.and_eq_true_iff.1 hsh
  rw [if_pos hv, shareLeaf_out_of_range hw hi]

end

/-- How many of the first `k` entries share frame `f`. -/
def sharers (old : Index → Word) (f : Ppn) (k : Nat) : Nat :=
  (List.range k).countP fun j => isShared (old (BitVec.ofNat 9 j)) && decide (getPpn (old (BitVec.ofNat 9 j)) = f)

theorem sharers_succ (old : Index → Word) (f : Ppn) (k : Nat) :
    sharers old f (k + 1) = sharers old f k
      + if isShared (old (BitVec.ofNat 9 k)) && decide (getPpn (old (BitVec.ofNat 9 k)) = f) then 1 else 0 := by
  simp only [sharers, List.range_succ, List.countP_append, List.countP_singleton]

/-- What the loop has made of the pool `p` once it has passed the first `k` entries of `src`, which were `old`. -/
structure SharedUpTo (last src dst : Ppn) (old : Index → Word) (p : Pool) (k : Nat) (q : Pool) : Prop where
  ok       : q.Ok last
  source   : ∀ i : Index, memRead8 q.mem (entryAt src i).toNat = if i.toNat < k then sharedEntry (old i) else old i
  copied   : ∀ i : Index, i.toNat < k → memRead8 q.mem (entryAt dst i).toNat = sharedEntry (old i)
  outside  : ∀ a, a / 4096 ≠ src.toNat → a / 4096 ≠ dst.toNat → memRead1 q.mem a = memRead1 p.mem a
  counts   : ∀ f, refcntOf q f = refcntOf p f + 2 * sharers old f k
  allocSet : q.allocSet = p.allocSet
  live     : q.live = p.live

section
variable {last src dst : Ppn} {old : Index → Word} {p : Pool}

/-- Nothing is passed yet. -/
theorem SharedUpTo.start (h : p.Ok last) (hold : ∀ i, old i = memRead8 p.mem (entryAt src i).toNat) :
    SharedUpTo last src dst old p 0 p where
  ok := h
  source i := by rw [if_neg (Nat.not_lt_zero _), hold]
  copied _ hi := absurd hi (Nat.not_lt_zero _)
  outside _ _ _ := rfl
  counts _ := rfl
  allocSet := rfl
  live := rfl

/-- The next entry is still as it was. -/
theorem SharedUpTo.current {k : Nat} {q : Pool} (h : SharedUpTo last src dst old p k q) {i : Index} (hi : i.toNat = k) :
    memRead8 q.mem (entryAt src i).toNat = old i := by
  rw [h.source, if_neg (by omega)]

/-- The loop passes one more entry. -/
theorem SharedUpTo.next {k : Nat} {q : Pool} (h : SharedUpTo last src dst old p k q) (hne : src ≠ dst)
    (hs : inPool last src = true) (hd : inPool last dst = true) {i : Index} (hi : i.toNat = k)
    (he : isShared (old i) = true → inPool last (getPpn (old i)) = true) :
    SharedUpTo last src dst old p (k + 1) { q.visited src i (old i) with
      mem := memWrite8 (q.visited src i (old i)).mem (entryAt dst i).toNat (sharedEntry (old i)) } := by
  have hok := h.ok.visited (i := i) hs he
  constructor
  case ok => exact hok.write8 (entryAt_populated hd i) _
  case source =>
    intro j
    rw [memRead8_write8_entry_ne _ (.inl hne)]
    by_cases hj : j = i
    · rw [hj, Pool.visited_source h.ok (h.current hi), if_pos (by omega)]
    · have : j.toNat ≠ i.toNat := mt BitVec.eq_of_toNat_eq hj
      rw [Pool.visited_other (.inr hj), h.source]
      exact if_congr (by omega) rfl rfl
  case copied =>
    intro j hjk
    by_cases hj : j = i
    · rw [hj]; exact memRead8_write8 hok.memWf _ _
    · have : j.toNat ≠ i.toNat := mt BitVec.eq_of_toNat_eq hj
      rw [memRead8_write8_entry_ne _ (.inr hj), Pool.visited_other (.inl hne.symm), h.copied j (by omega)]
  case outside =>
    intro a hsrc hdst
    rw [memRead1_write8_entry_ne _ hdst, Pool.visited_outside hsrc, h.outside a hsrc hdst]
  case counts =>
    intro f
    rw [sharers_succ, ofNat_index hi]
    exact (Pool.refcntOf_visited h.ok f).trans (by rw [h.counts]; ring)
  case allocSet => exact Pool.visited_allocSet.trans h.allocSet
  case live => exact Pool.visited_live.trans h.live

/-- The turn of the loop with `n` entries after it, when its entry can be counted if it is to be shared. -/
theorem SharedUpTo.forkEntries_succ {n : Nat} {q : Pool} (h : SharedUpTo last src dst old p (512 - (n + 1)) q)
    (hne : src ≠ dst) (hs : inPool last src = true) (hd : inPool last dst = true) (hn : n < 512) {i : Index}
    (hi : i.toNat = 511 - n) (he : isShared (old i) = true → inPool last (getPpn (old i)) = true) :
    ∃ r, forkEntries (shareLeaf last) src dst (n + 1) q = forkEntries (shareLeaf last) src dst n r
      ∧ SharedUpTo last src dst old p (512 - n) r := by
  have hstep : 512 - (n + 1) + 1 = 512 - n := by omega
  refine ⟨_, ?_, hstep ▸ h.next hne hs hd (by omega) he⟩
  simp only [forkEntries]
  rw [ofNat_index hi, h.current (by omega), shareLeaf_visit he, PoolResult.ok_andThen]

/-- The rest of the loop, when every entry it would share can be counted. -/
theorem SharedUpTo.completes (hne : src ≠ dst) (hs : inPool last src = true) (hd : inPool last dst = true)
    (he : ∀ i, isShared (old i) = true → inPool last (getPpn (old i)) = true) {n : Nat} (hn : n ≤ 512) {q : Pool}
    (h : SharedUpTo last src dst old p (512 - n) q) :
    ∃ r, forkEntries (shareLeaf last) src dst n q = .ok () r ∧ SharedUpTo last src dst old p 512 r := by
  induction n generalizing q with
  | zero => exact ⟨q, rfl, h⟩
  | succ n ih =>
    have hi : (BitVec.ofNat 9 (511 - n)).toNat = 511 - n := by rw [BitVec.toNat_ofNat]; omega
    obtain ⟨r, hr, hnext⟩ := h.forkEntries_succ hne hs hd (by omega) hi (he _)
    rw [hr]
    exact ih (by omega) hnext

/-- The rest of the loop, when it has an entry to share that names no frame. -/
theorem SharedUpTo.aborts (hne : src ≠ dst) (hs : inPool last src = true) (hd : inPool last dst = true) {i : Index}
    (hsh : isShared (old i) = true) (hbad : inPool last (getPpn (old i)) = false) {n : Nat} (hn : n ≤ 512)
    (hin : 512 - n ≤ i.toNat) {q : Pool} (h : SharedUpTo last src dst old p (512 - n) q) :
    ∃ r, forkEntries (shareLeaf last) src dst n q = .stop (.abort .frameRange) r := by
  induction n generalizing q with
  | zero => have := i.isLt; omega
  | succ n ih =>
    obtain ⟨j, hj⟩ : ∃ j : Index, j.toNat = 511 - n := ⟨BitVec.ofNat 9 (511 - n), by rw [BitVec.toNat_ofNat]; omega⟩
    by_cases he : isShared (old j) = true → inPool last (getPpn (old j)) = true
    · have hne_index : j ≠ i := fun hji => Bool.false_ne_true (hbad ▸ hji ▸ he (hji ▸ hsh))
      have hlt : j.toNat ≠ i.toNat := mt BitVec.eq_of_toNat_eq hne_index
      obtain ⟨r, hr, hnext⟩ := h.forkEntries_succ hne hs hd (by omega) hj he
      rw [hr]
      exact ih (by omega) (by omega) hnext
    · obtain ⟨hk, hout⟩ := Classical.not_imp.1 he
      simp only [forkEntries]
      rw [ofNat_index hj, h.current (by omega), shareLeaf_visit_out_of_range hk (Bool.eq_false_iff.2 hout)]
      exact ⟨_, rfl⟩

end

/-- Settles O52: the leaf rule has one equation per case; the loop passes the entries in index order and stops at the
first that it cannot share. -/
theorem lazyForkSharesALeafTable : Obligations.LazyForkSharesALeafTable := by
  refine ⟨fun last a e p hok => ⟨fun hw hi => ?_, fun hw hi => ?_, fun hw => shareLeaf_readonly hw last a p⟩, ?_⟩
  · exact ⟨_, _, shareLeaf_writable hw (inPool_iff.2 hi) a p, protectedLeaf_eq e, memRead8_write8 hok.memWf _ _,
      fun b hb => memRead1_write8_ne _ _ hb, Pool.refcntOf_shared hok _ _, rfl, rfl⟩
  · exact ⟨_, shareLeaf_out_of_range hw (not_inPool_iff.2 hi) a p, rfl, rfl, rfl⟩
  · intro last src dst path p p' old hok hsrc halloc hold
    obtain ⟨hok', hd⟩ := hok.of_alloc halloc
    obtain ⟨rfl, hfresh⟩ := allocFrame_eq_ok halloc
    have hne : src ≠ dst := fun h => hfresh (h ▸ hsrc)
    have hs : inPool last src = true := inPool_iff.2 (hok.allocInside _ hsrc)
    have hstart := SharedUpTo.start (dst := dst) hok' hold
    simp only [forkTable]
    rw [halloc, PoolResult.ok_andThen]
    refine ⟨fun hin => ?_, fun ⟨i, hv, hw, hbad⟩ => ?_⟩
    · have he : ∀ i, isShared (old i) = true → inPool last (getPpn (old i)) = true := fun i hi => by
        obtain ⟨hv, hw⟩ := Bool.and_eq_true_iff.1 hi
        exact inPool_iff.2 (hin i hv hw)
      obtain ⟨q, hq, hend⟩ := hstart.completes hne hs hd he (n := 512) le_rfl
      rw [hq]
      refine ⟨q, rfl, fun i e h => ?_, hend.outside, hend.counts, hend.allocSet, hend.live⟩
      subst h
      exact ⟨(hend.source i).trans (if_pos i.isLt), hend.copied i i.isLt⟩
    · have hsh : isShared (old i) = true := Bool.and_eq_true_iff.2 ⟨hv, hw⟩
      obtain ⟨q, hq⟩ := hstart.aborts hne hs hd hsh (not_inPool_iff.2 hbad) (n := 512) le_rfl (Nat.zero_le _)
      rw [hq]
      exact ⟨q, rfl⟩

end Sys2Proof.Machine
end

section
/-! SUPPORT. The copy-on-write handler at a leaf (spec/44_fork_cow_env.md R193), case by case: what leaves the entry
alone, the sole owner's write bit, and the copy of a shared frame. -/

namespace Sys2Proof.Machine

/-- A leaf made writable again, its marker cleared (R193). -/
def ownedLeaf (e : Word) : Word := clearDeferred (setWrite e)

theorem ownedLeaf_eq (e : Word) : ownedLeaf e = (e ||| 0x4) &&& 0xFFFFFFFFFFFFFEFF := rfl

/-! The cases that copy nothing. -/

theorem cowHandler_interior {r : FaultRequest} (h : r.level ≠ .l0) (last : Ppn) (p : Pool) :
    cowHandler last r p = .completes .done p := by
  unfold cowHandler
  cases hl : r.level
  · exact absurd hl h
  · rfl
  · rfl

section
variable {last : Ppn} {r : FaultRequest} {p : Pool} {e : Word}
  (hl : r.level = .l0) (ha : cowEntryAddr r + 8 ≤ poolBytes last) (he : e = memRead8 p.mem (cowEntryAddr r))
include hl ha he

theorem cowHandler_invalid (hv : getValid e = false) : cowHandler last r p = .completes .done p := by
  simp [cowHandler, hl, populated, ha, ← he, hv]

theorem cowHandler_out_of_range (hi : inPool last (getPpn e) = false) : cowHandler last r p = .completes .done p := by
  simp [cowHandler, hl, populated, ha, ← he, hi]

theorem cowHandler_uncounted (hr : refcntOf p (getPpn e) = 0) : cowHandler last r p = .completes .done p := by
  simp [cowHandler, hl, populated, ha, ← he, hr]

theorem cowHandler_sole_owner (hv : getValid e = true) (hi : inPool last (getPpn e) = true)
    (hr : refcntOf p (getPpn e) = 1) : cowHandler last r p = .completes .done
      (if getDeferred e then { p with mem := memWrite8 p.mem (cowEntryAddr r) (ownedLeaf e) } else p) := by
  simp only [cowHandler, hl, populated, ha, ← he, hv, hi, hr, decide_true, if_true, Bool.not_true, Bool.false_eq_true,
    if_false]
  split_ifs <;> rfl

end

/-- Settles O53, one equation of the handler per clause. -/
theorem cowHandlerCases : Obligations.CowHandlerCases := by
  intro last r p ea e
  refine ⟨fun h => cowHandler_interior h last p, ?_⟩
  rintro hl rfl ha he
  refine ⟨cowHandler_invalid hl ha he, fun hi => cowHandler_out_of_range hl ha he (not_inPool_iff.2 hi),
    fun _ => cowHandler_uncounted hl ha he, fun hv hi hr => ?_⟩
  rw [← ownedLeaf_eq]
  exact cowHandler_sole_owner hl ha he hv (inPool_iff.2 hi) hr

/-! The copy of a shared frame. -/

/-- What the handler leaves when `alloc()` gave it `new` and the pool `q`: the copy, the entry at `ea` repointed, the
shared frame counted once less (R193). -/
def Pool.unshared (q : Pool) (ea : Nat) (e : Word) (new : Ppn) : Pool :=
  setRefcnt { q with mem := memWrite8 (copyFrame q.mem new (getPpn e)) ea (ownedLeaf (setPpn e new)) } (getPpn e)
    (refcntOf q (getPpn e) - 1)

theorem cowCopy_with_frame {last new : Ppn} {p q : Pool} (h : allocFrame last p = .ok new q) (ea : Nat) (e : Word) :
    cowCopy last ea e p = .completes .done (q.unshared ea e new) := by
  simp only [cowCopy, h]; rfl

section
variable {last : Ppn} {q : Pool} (h : q.Ok last)
include h

theorem Pool.memRead8_unshared (ea : Nat) (e : Word) (new : Ppn) :
    memRead8 (q.unshared ea e new).mem ea = ownedLeaf (setPpn e new) :=
  memRead8_write8 (copyFrame_wf h.memWf _ _) _ _

/-- Outside the entry, memory after the copy is memory with the frame copied. -/
theorem Pool.memRead1_unshared {ea a : Nat} (ha : a < ea ∨ ea + 8 ≤ a) (e : Word) (new : Ppn) :
    memRead1 (q.unshared ea e new).mem a =
      if inFrame new a then memRead1 q.mem ((getPpn e).toNat * 4096 + a % 4096) else memRead1 q.mem a :=
  (memRead1_write8_ne _ _ ha).trans (memRead1_copyFrame h.memWf _ _ _)

theorem Pool.refcntOf_unshared (ea : Nat) (e : Word) (new f : Ppn) :
    refcntOf (q.unshared ea e new) f = if f = getPpn e then refcntOf q f - 1 else refcntOf q f :=
  refcntOf_update h (· - 1) (getPpn e) f

end

/-- Settles O54: the entry's table is allocated and the new frame is not, so the entry lies outside the copy. -/
theorem cowHandlerCopiesASharedFrame : Obligations.CowHandlerCopiesASharedFrame := by
  intro last r p ea e hok hl hea halign ha htable he hv hi hr
  have hcopy : cowHandler last r p = cowCopy last ea e p := by
    subst hea he
    exact cowHandler_shared hl ha hv (inPool_iff.2 hi) hr
  rw [hcopy]
  refine ⟨fun hfull => cowCopy_exhausted hfull ea e, fun new q halloc => ?_⟩
  obtain ⟨hokq, -⟩ := hok.of_alloc halloc
  obtain ⟨rfl, hfresh⟩ := allocFrame_eq_ok halloc
  refine ⟨_, cowCopy_with_frame halloc ea e, fun a hnew => ?_,
    (Pool.memRead8_unshared hokq ea e new).trans (ownedLeaf_eq _), fun a hnew hout => ?_,
    Pool.refcntOf_unshared hokq ea e new, rfl, rfl⟩
  · have hne : a / 4096 ≠ ea / 4096 := fun h => hfresh (hnew ▸ h ▸ htable)
    rw [Pool.memRead1_unshared hokq (by omega), if_pos (inFrame_iff.2 hnew)]
  · rw [Pool.memRead1_unshared hokq hout, if_neg (mt inFrame_iff.1 hnew)]

end Sys2Proof.Machine
end

section
/-! SUPPORT. The ways into and out of `HALT`: the fatal fault and its diagnostic (spec/60_exceptions.md R212, R214), the
host that ends the process (R216), and the step of a halted machine (R217). -/

namespace Sys2Proof.Machine

/-! The diagnostic. -/

/-- A row that writes `DIAG_VALID` raises the fatal fault, in a round of the walk or of the permission check that has
called the handler already (T4b, T7c). -/
theorem Row.raises_fatal {s t : State} (h : Row s t) (hd : t.diagValid ≠ s.diagValid) :
    (s.phase = .walk ∨ s.phase = .perm) ∧ s.faulted = true
      ∧ ∃ l e u, t = raiseFatal s.va l e u ∧ u.rsp = s.rsp := by
  cases h with
  | t4b hp _ _ hn => exact ⟨.inl hp, hn, _, _, _, rfl, rfl⟩
  | t7c hp _ hn => exact ⟨.inr hp, hn, _, _, _, rfl, rfl⟩
  | t3 | t4a | t4c | t4d | t4e | t5 | t6 | t6abort | t7a | t7b | t8 | t9 | t9abort | t10 | t11 | t12 =>
    exact absurd rfl hd

/-- Settles O29: `IDLE` has no row that changes anything, and a row that writes the diagnostic raises the fatal fault. -/
theorem fatalFaultNeedsARetry : Obligations.FatalFaultNeedsARetry := by
  intro s t hs hclear hset
  have hd : t.diagValid ≠ s.diagValid := by simp [hclear, hset]
  have hidle : s.phase ≠ .idle := by
    intro hp
    obtain rfl : s = t := by simpa [phaseStep, hp] using hs
    exact hd rfl
  obtain ⟨hphase, hfaulted, l, e, u, rfl, hrsp⟩ := (phaseStep_row hs hidle).raises_fatal hd
  exact ⟨hphase, hfaulted, rfl, rfl, rfl, hrsp⟩

/-! The halted machine. -/

/-- Unless the host resets next, the turn is the walker's or, in `IDLE`, the host's. -/
theorem step_without_reset {s : State} (h : ∀ q, s.hostQueue ≠ .reset :: q) : step s = walkerOrHost s := by
  unfold step machineTurn
  split
  · exact absurd ‹_› (h _)
  · rfl

/-- Settles O44: a halted machine has no turn of its own, and of all that a step can do only a reset starts in
`HALT`. -/
theorem haltIsForGood : Obligations.HaltIsForGood := by
  intro s hp
  refine ⟨fun hq => ?_, fun t ht => ?_⟩
  · rw [step_without_reset hq]
    simp only [walkerOrHost, hp]
  · rcases step_cases ht with hreset | ⟨hi, -, -⟩ | ⟨a, q, hi, -, -, -⟩ | ⟨-, hh, -⟩
    · exact hreset
    · cases hp.symm.trans hi
    · cases hp.symm.trans hi
    · exact absurd hp hh

/-! The host that ends the process. -/

/-- Settles O59: the host's next action is taken, and it is the termination it names. -/
theorem hostMayEndTheProcess : Obligations.HostMayEndTheProcess := by
  refine ⟨fun s q c hp hq => ?_, rfl, rfl, rfl⟩
  rw [step_hostMove hp hq, hostMove_terminate]
  rfl

end Sys2Proof.Machine
end

section
/-! SUPPORT. How an operation ends when it is not answered (spec/70_reset_and_hazards.md): an access waits for good only
for an outside handler (R246, R253), and a reset ends whatever is in progress (R240). -/

namespace Sys2Proof.Machine

/-! The end of an access. -/

/-- A round that waits for the handler or has passed the walk evaluates a table of the pool, and after the walk the
latched address is that of an entry of the pool (43_translator.md R153). -/
structure State.RoundInside (s : State) : Prop where
  table : s.phase = .hwait ∨ s.phase = .perm ∨ s.phase = .pwait → inPool s.lastPpn s.table = true
  eaddr : s.phase = .perm ∨ s.phase = .pwait → s.eaddr.toNat + 8 ≤ poolBytes s.lastPpn

/-- The other phases ask for nothing. -/
theorem State.roundInside_of_phase {s : State} (hh : s.phase ≠ .hwait) (hp : s.phase ≠ .perm) (hw : s.phase ≠ .pwait) :
    s.RoundInside where
  table := by simp [hh, hp, hw]
  eaddr := by simp [hp, hw]

/-- The walk enters a wait and the permission round with a table that T3 has checked; every later row keeps both. -/
theorem Row.roundInside {s t : State} (h : s.RoundInside) (hr : Row s t) : t.RoundInside := by
  cases hr with
  | t4a _ ht => exact ⟨fun _ => ht, by simp⟩
  | t4e _ ht => exact ⟨fun _ => ht, fun _ => entryAt_populated ht _⟩
  | t7b hp => exact ⟨fun _ => h.table (by simp [hp]), fun _ => h.eaddr (by simp [hp])⟩
  | t8 _ hp ha => exact ⟨fun _ => h.table (by simp [hp]), fun _ => ha⟩
  | t3 | t4b | t4c | t4d | t5 | t6 | t6abort | t7a | t7c | t9 | t9abort | t10 | t11 | t12 =>
    exact State.roundInside_of_phase (by simp) (by simp) (by simp)

theorem runAccess_roundInside (op : AccessOp) (va b : Word) (s : State) : (runAccess op va b s).RoundInside := by
  refine runRows_keeps (P := State.RoundInside) (fun _ _ hs _ _ hr => hr.roundInside hs) _ _ ?_
  unfold startAccess
  split_ifs <;> exact State.roundInside_of_phase (by simp) (by simp) (by simp)

/-- The one stop of a wait is a turn of the handler that is stuck. -/
theorem awaitHandler_error {l : Level} {resume : State → State} {s : State} {f : Fault}
    (h : awaitHandler l resume s = .error f) : handlerTurn s (faultRequest s l) = .stuck f := by
  unfold awaitHandler at h
  split at h <;> cases h
  assumption

/-- `t` waits for good: the turn of its outside handler on the pending call is stuck with `f`. -/
def StuckCall (t : State) (f : Fault) : Prop :=
  t.handler = .agent ∧ ∃ l : Level, handlerTurn t (faultRequest t l) = .stuck f
    ∧ (t.phase = .hwait ∧ l = t.level ∨ t.phase = .pwait ∧ l = .l0)

/-- A wait in which the walker takes no row is for an outside handler: the entry the handler is called on lies in the
pool, where the null and the COW handler complete. -/
theorem State.RoundInside.stuckCall {t : State} {f : Fault} (h : t.RoundInside)
    (hwait : t.phase = .hwait ∨ t.phase = .pwait) (herror : phaseStep t = .error f) : StuckCall t f := by
  have htable : inPool t.lastPpn t.table = true := h.table (hwait.imp_right .inr)
  rcases hwait with hp | hp
  · rw [phaseStep, hp] at herror
    have hstuck := awaitHandler_error herror
    exact ⟨handlerTurn_stuck htable hstuck, _, hstuck, .inl ⟨hp, rfl⟩⟩
  · rw [phaseStep_pwait hp (h.eaddr (.inr hp))] at herror
    have hstuck := awaitHandler_error herror
    exact ⟨handlerTurn_stuck htable hstuck, _, hstuck, .inr ⟨hp, rfl⟩⟩

/-- Each ending of the sequential form is an answer, a halt or, where it hangs, a stuck call. -/
theorem Concludes.ends {va : Word} {t : State} {r : SeqResult Word} (h : Concludes va t r) (hin : t.RoundInside) :
    (t.phase = .idle ∧ t.rsp.isSome = true) ∨ (t.phase = .halt ∧ t.rsp = none)
      ∨ (t.rsp = none ∧ ∃ f, StuckCall t f) := by
  have hshows := h.shows.1
  cases hx : r.ending.1 <;> rw [hx] at hshows
  case answers v => exact .inl ⟨hshows.1, by simp [hshows.2]⟩
  case fatal | aborts | terminates =>
    obtain ⟨hhalt, hsilent, -⟩ := hshows
    exact .inr (.inl ⟨hhalt, hsilent⟩)
  case hangs f =>
    obtain ⟨hwait, hsilent, herror⟩ := hshows
    exact .inr (.inr ⟨hsilent, f, hin.stuckCall hwait herror⟩)

/-- Settles O28: an access concludes as its sequential form, whose one ending without a response or `HALT` is a stuck
call. -/
theorem everyAccessEnds : Obligations.EveryAccessEnds := by
  intro s va b hp i hi
  obtain ⟨op, hexec, -⟩ := exec_access hp hi
  have hhandler := (runAccess_sameSetup op va b (accepted s)).handler
  refine ⟨_, hexec, ?_⟩
  rcases (runAccess_concludes s op va b).ends (runAccess_roundInside op va b (accepted s)) with
    hanswer | hhalt | ⟨hsilent, f, hagent, l, hstuck, hphase⟩
  · exact .inl hanswer
  · exact .inr (.inl hhalt)
  · exact .inr (.inr ⟨hhandler.symm.trans hagent, hsilent, l, f, hstuck, hphase⟩)

/-! Reset. -/

/-- In every phase a reset that is the host's next action is taken. -/
theorem step_reset {s : State} {q : List HostAction} (hq : s.hostQueue = .reset :: q) :
    step s = .next (resetMachine { s with hostQueue := q }) := by
  simp only [step, machineTurn, hq]

/-- Settles O45: the step is `resetMachine`, and only the turns look at the phase. -/
theorem resetRestoresTheResetValues : Obligations.ResetRestoresTheResetValues := by
  intro s q hq
  exact ⟨_, step_reset hq, rfl, rfl, rfl, rfl, rfl, rfl, rfl, fun _ => rfl, rfl, rfl, fun _ => rfl, rfl, rfl, rfl, rfl,
    fun hwait => turnsAfterReset_waiting (s := { s with hostQueue := q }) hwait,
    fun hh hw => turnsAfterReset_idle (s := { s with hostQueue := q }) hh hw⟩

end Sys2Proof.Machine
end
